-- ==== Sys2Proof/Word.lean ====
section
/-! DEFINITION. The bit vectors of the block (`10_state.md` R20 to R28, `30_encoding.md` R70): the widths are the spec's
own (`00_scope.md` R6). All values are unsigned, bit 0 is the least significant (`00_scope.md` R7). -/

namespace Sys2Proof

/-- A byte: `in_byte`, and one cell of PAY. -/
abbrev Byte := BitVec 8

/-- A 16-bit register: FLEN, ACC, CKR and each field of REC. -/
abbrev Word := BitVec 16

/-- The position index POS, `POS_W` = 5 bits (`10_state.md` R21). -/
abbrev Pos := BitVec 5

/-- An 11-bit word of the STEP or the ING format (`30_encoding.md` R70, R72). -/
abbrev StepWord := BitVec 11

end Sys2Proof
end

