-- ==== Sys2Proof/Syntax.lean ====
section
/-! DEFINITION. The operations of the block: one constructor for each row of `spec/opcode_table.json`. The first five are
the STEP rows (`30_encoding.md` R71), the other eight the ING rows (R72). Bits the encoding ignores are no operand. -/

namespace Sys2Proof

/-- One operation: a STEP operation, which a step word presents, or an ING operation, which the phase selects for the
byte of a BYTE or CLRBYTE step (`42_step_control.md` R145). -/
inductive Instr where
  /-- `RST`, `70_reset_and_hazards.md` R180. -/
  | rst
  /-- `IDLE`, `42_step_control.md` R141. -/
  | idle
  /-- `BYTE b`, R142. -/
  | byte (b : Byte)
  /-- `CLR`, R143. -/
  | clr
  /-- `CLRBYTE b`, R144. -/
  | clrbyte (b : Byte)
  /-- `ING_M1 b`, `40_ingest_header.md` R102. -/
  | ingM1 (b : Byte)
  /-- `ING_M2 b`, R103. -/
  | ingM2 (b : Byte)
  /-- `ING_LENH b`, R104. -/
  | ingLenh (b : Byte)
  /-- `ING_LENL b`, R105. -/
  | ingLenl (b : Byte)
  /-- `ING_PAY b`, `41_ingest_payload_checksum.md` R120. -/
  | ingPay (b : Byte)
  /-- `ING_CKH b`, R121. -/
  | ingCkh (b : Byte)
  /-- `ING_CKL b`, R122. -/
  | ingCkl (b : Byte)
  /-- `ING_ILL b`, `42_step_control.md` R146. -/
  | ingIll (b : Byte)
deriving DecidableEq, Repr

end Sys2Proof
end

