-- ==== Sys2Proof/WellFormed.lean ====
section
/-! DEFINITION. What may be written. An `Instr` needs no check of its operand: a byte is eight bits by its type, and every
value is admitted (`30_encoding.md` R76). Two things are checked: that an operation is one a step word can present, and that
the lines of a stimulus program (R78, R79) hold operands in range. -/

namespace Sys2Proof

/-- The operation is a row of the STEP format: one that the input ports can present (`30_encoding.md` R71). An ING operation
is selected by the phase and is never presented (R72). -/
def Instr.isStep : Instr → Bool
  | .rst => true
  | .idle => true
  | .byte _ => true
  | .clr => true
  | .clrbyte _ => true
  | .ingM1 _ => false
  | .ingM2 _ => false
  | .ingLenh _ => false
  | .ingLenl _ => false
  | .ingPay _ => false
  | .ingCkh _ => false
  | .ingCkl _ => false
  | .ingIll _ => false

/-- One line of a stimulus program: the five mnemonics of `30_encoding.md` R78 and the pseudo-instructions of R79. Operands
are the numbers as written. -/
inductive Line where
  | rst
  | idle
  | clr
  | byte (b : Nat)
  | clrbyte (b : Nat)
  /-- `BYTES b0 b1 ... bn`. -/
  | bytes (bs : List Nat)
  /-- `FRAME L w0 ... wn`. -/
  | frame (len : Nat) (ws : List Nat)
  /-- `FRAMECK L C w0 ... wn`. -/
  | frameck (len ck : Nat) (ws : List Nat)
  /-- `REPEAT n <line>`. -/
  | rep (n : Nat) (l : Line)
deriving DecidableEq, Repr

/-- A byte operand is a number from 0 to 255 (`30_encoding.md` R78). -/
def isByteOperand (n : Nat) : Bool := n < 256

/-- L, C and the words w of FRAME and FRAMECK are 16-bit values (`30_encoding.md` R79). -/
def isWordOperand (n : Nat) : Bool := n < 65536

/-- Every operand is in range, and a list written `x0 ... xn` holds at least x0. FRAME checks nothing else (R79). -/
def Line.wellFormed : Line → Bool
  | .rst => true
  | .idle => true
  | .clr => true
  | .byte b => isByteOperand b
  | .clrbyte b => isByteOperand b
  | .bytes bs => !bs.isEmpty && bs.all isByteOperand
  | .frame len ws => isWordOperand len && !ws.isEmpty && ws.all isWordOperand
  | .frameck len ck ws => isWordOperand len && isWordOperand ck && !ws.isEmpty && ws.all isWordOperand
  | .rep _ l => l.wellFormed

/-- What a well-formed frame needs beyond well-formed operands: L in {20, 28} and (L - 2) / 2 words
(`30_encoding.md` R79). FRAME does not ask it. -/
def isFrameShape (len : Nat) (ws : List Nat) : Bool :=
  (len == 20 || len == 28) && ws.length == (len - 2) / 2

end Sys2Proof
end

