-- ==== Sys2Proof/Decode.lean ====
section
/-! DEFINITION. The two 11-bit formats of `30_encoding.md`: fields, decoder, encoder, and the masks of the opcode map. The
formats use the same eleven bits, so the format is an input of the decoder (log entry 6). -/

namespace Sys2Proof

/-- The two formats of `30_encoding.md`. -/
inductive Format where
  /-- STEP, R70: `{rst, clr_status, in_valid, in_byte[7:0]}`. -/
  | step
  /-- ING, R72: `{PHASE[2:0], b[7:0]}`. -/
  | ing
deriving DecidableEq, Repr

/-- Why a number is no word of either format. -/
inductive DecodeError where
  /-- It has a bit above bit 10: "There are no bits above bit 10" (`30_encoding.md` R70). -/
  | wordTooWide
deriving DecidableEq, Repr

/-- Field `r` of a step word, the port `rst` (R70). -/
def stepR (w : StepWord) : Bool := w.getLsbD 10

/-- Field `c` of a step word, the port `clr_status` (R70). -/
def stepC (w : StepWord) : Bool := w.getLsbD 9

/-- Field `v` of a step word, the port `in_valid` (R70). -/
def stepV (w : StepWord) : Bool := w.getLsbD 8

/-- Field `b` of a word of either format, the byte (R70, R72). -/
def wordByte (w : StepWord) : Byte := w.extractLsb' 0 8

/-- The step word the four ports make (R70). -/
def portWord (r c v : Bool) (b : Byte) : StepWord :=
  BitVec.ofBool r ++ BitVec.ofBool c ++ BitVec.ofBool v ++ b

/-- STEP decode (R71): total, every one of the 2048 words is an operation (R76). -/
def decodeStep (w : StepWord) : Instr :=
  match stepR w, stepC w, stepV w with
  | true, _, _ => .rst
  | false, false, false => .idle
  | false, false, true => .byte (wordByte w)
  | false, true, false => .clr
  | false, true, true => .clrbyte (wordByte w)

/-- ING decode (R72): the phase in bits 10..8 alone selects. -/
def decodeIng (w : StepWord) : Instr :=
  match w.getLsbD 10, w.getLsbD 9, w.getLsbD 8 with
  | false, false, false => .ingM1 (wordByte w)
  | false, false, true => .ingM2 (wordByte w)
  | false, true, false => .ingLenh (wordByte w)
  | false, true, true => .ingLenl (wordByte w)
  | true, false, false => .ingPay (wordByte w)
  | true, false, true => .ingCkh (wordByte w)
  | true, true, false => .ingCkl (wordByte w)
  | true, true, true => .ingIll (wordByte w)

/-- The decoder of both formats. -/
def decode : Format → StepWord → Instr
  | .step, w => decodeStep w
  | .ing, w => decodeIng w

/-- The decoder on any number: a number of more than eleven bits is rejected by name. -/
def decodeNat (f : Format) (w : Nat) : Except DecodeError Instr :=
  if w < 2048 then .ok (decode f (BitVec.ofNat 11 w)) else .error .wordTooWide

/-- The instruction this decoder reads from a word of the opcode table, in the STEP format: the only words the block is
given are step words, and an ING word is made inside the step from PHASE (R72). Log entry 6. -/
def decodeTableWord (_nbits w : Nat) : Option Instr :=
  match decodeNat .step w with
  | .ok i => some i
  | .error _ => none

/-- The format an operation is a row of. -/
def Instr.format (i : Instr) : Format := if i.isStep then .step else .ing

/-- The canonical word of an operation: ignored bits are 0 (R71, R72). -/
def encode : Instr → StepWord
  | .rst => 0x400#11
  | .idle => 0x000#11
  | .byte b => 0x100#11 ||| b.setWidth 11
  | .clr => 0x200#11
  | .clrbyte b => 0x300#11 ||| b.setWidth 11
  | .ingM1 b => 0#3 ++ b
  | .ingM2 b => 1#3 ++ b
  | .ingLenh b => 2#3 ++ b
  | .ingLenl b => 3#3 ++ b
  | .ingPay b => 4#3 ++ b
  | .ingCkh b => 5#3 ++ b
  | .ingCkl b => 6#3 ++ b
  | .ingIll b => 7#3 ++ b

/-- The column `mask` of the opcode map (R71, R72). -/
def rowMask : Instr → StepWord
  | .rst => 0x400#11
  | .idle => 0x700#11
  | .byte _ => 0x700#11
  | .clr => 0x700#11
  | .clrbyte _ => 0x700#11
  | .ingM1 _ => 0x700#11
  | .ingM2 _ => 0x700#11
  | .ingLenh _ => 0x700#11
  | .ingLenl _ => 0x700#11
  | .ingPay _ => 0x700#11
  | .ingCkh _ => 0x700#11
  | .ingCkl _ => 0x700#11
  | .ingIll _ => 0x700#11

/-- The column `match` of the opcode map (R71, R72). -/
def rowMatch : Instr → StepWord
  | .rst => 0x400#11
  | .idle => 0x000#11
  | .byte _ => 0x100#11
  | .clr => 0x200#11
  | .clrbyte _ => 0x300#11
  | .ingM1 _ => 0x000#11
  | .ingM2 _ => 0x100#11
  | .ingLenh _ => 0x200#11
  | .ingLenl _ => 0x300#11
  | .ingPay _ => 0x400#11
  | .ingCkh _ => 0x500#11
  | .ingCkl _ => 0x600#11
  | .ingIll _ => 0x700#11

end Sys2Proof
end

