-- ==== Sys2Proof/Config.lean ====
section
/-! DEFINITION. What is fixed for the block: the protocol constants (`00_scope.md` R5) and the two free values
the spec leaves open. `PAY_CAP` = 26 and `NFIELDS` = 12 are the sizes of PAY and REC in the type of State. -/

namespace Sys2Proof.Config

/-- Start marker 1, `M1`. -/
def m1 : Byte := 0x42#8

/-- Start marker 2, `M2`. -/
def m2 : Byte := 0x4D#8

/-- `LEN9`: declared length of the 9-field variant. -/
def len9 : Word := 20#16

/-- `LEN13`: declared length of the 13-field variant. -/
def len13 : Word := 28#16

/-- `SENTINEL`: a record field's value before the first valid frame. -/
def sentinel : Word := 0xFFFF#16

/-- What ING_M1 loads into ACC: the marker itself (`40_ingest_header.md` R102, `90_conflicts.md` C2). -/
def accStart : Word := 0x0042#16

/-- `PAYLOAD_INIT`, the contents of PAY at power-on, by index. OPEN in the spec (`92_eei_decisions.md` D12,
`93_implementation_defined.md` U1: "a free draw"), so a free value: no body, nothing can evaluate it.
Log entry 1. -/
opaque payloadInit : Nat → Byte

/-- The step words the environment drives when State has none lined up, by draw. The inputs are free in every step
(`70_reset_and_hazards.md` R185, `93_implementation_defined.md` U6), so a free value. Log entry 2. -/
opaque stimulus : Nat → StepWord

end Sys2Proof.Config
end

