-- ==== Sys2Proof/Machine/State.lean ====
section
/-! DEFINITION. The state of the block (`10_state.md` R20), the environment's step words beside it, the reasons a step can
stop, and the reset state. -/

namespace Sys2Proof.Machine

/-- STATUS (`10_state.md` R27). -/
inductive Status where
  /-- 0: no frame has validated since the status was last cleared. -/
  | waiting
  /-- 1: a frame has validated since then. -/
  | ok
deriving DecidableEq, Repr

/-- PHASE (`10_state.md` R29), the state names of the source's §9 in their order, and the unreachable eighth. -/
inductive Phase where
  | awaitMarker1
  | awaitMarker2
  | readLengthHigh
  | readLengthLow
  | readPayload
  | readChecksumHigh
  | readChecksumLow
  /-- 7: POS >= 4 and POS > FLEN + 3. -/
  | unreachable
deriving DecidableEq, Repr

/-- The discard classes (`60_exceptions.md` R161): names for the reader and for traces, in no register. -/
inductive DiscardClass where
  | skipM1
  | badM2
  | badLen
  | badCk
deriving DecidableEq, Repr

/-- The faults. -/
inductive Fault where
  /-- `raise Unreachable("POS beyond FLEN+3")`: raised by ING_ILL alone, so by a BYTE or CLRBYTE step in PHASE 7
  (`42_step_control.md` R146). Kept: a fault has no next state. Safe: the machine stops where hardware "is free to do
  anything" (log entry 4). -/
  | unreachable
deriving DecidableEq, Repr

/-- The refusals. -/
inductive Refusal where
  /-- Raised by an arm of `exec` whose operation has no meaning yet. Safe. No arm raises it. -/
  | notModelled (mnemonic : String)
deriving DecidableEq, Repr

/-- The whole state. The first eight fields are the block's registers (`10_state.md` R20); `inputs` and `draws` are the
model's own and stand for the environment (log entry 2). -/
@[ext]
structure State where
  /-- POS: index of the next byte within the current frame (R21). -/
  pos : Pos
  /-- FLEN: the declared length (R22). -/
  flen : Word
  /-- ACC: the running checksum (R23). -/
  acc : Word
  /-- CKR: the received checksum (R24). -/
  ckr : Word
  /-- PAY[0..25]: the payload buffer (R25). -/
  pay : Vector Byte 26
  /-- REC[0..11]: the published record (R26). -/
  record : Vector Word 12
  /-- STATUS (R27). -/
  status : Status
  /-- DONE: the completion pulse (R28). -/
  done : Bool
  /-- The step words the environment has lined up, oldest first. -/
  inputs : List StepWord
  /-- How many free step words have been drawn. -/
  draws : Nat
deriving DecidableEq, Repr

/-- What an operation answers. -/
abbrev Answer := Host.Outcome State Fault Refusal

namespace State

/-- `x[POS] <- p`. -/
def setPos (s : State) (p : Pos) : State := { s with pos := p }

/-- `x[FLEN] <- w`. -/
def setFlen (s : State) (w : Word) : State := { s with flen := w }

/-- `x[ACC] <- w`. -/
def setAcc (s : State) (w : Word) : State := { s with acc := w }

/-- `x[CKR] <- w`. -/
def setCkr (s : State) (w : Word) : State := { s with ckr := w }

/-- The payload buffer replaced. -/
def setPay (s : State) (p : Vector Byte 26) : State := { s with pay := p }

/-- The record replaced, all twelve fields at once. -/
def setRecord (s : State) (r : Vector Word 12) : State := { s with record := r }

/-- `x[STATUS] <- v`. -/
def setStatus (s : State) (v : Status) : State := { s with status := v }

/-- `x[DONE] <- v`. -/
def setDone (s : State) (v : Bool) : State := { s with done := v }

/-- The environment's lined-up step words replaced. -/
def setInputs (s : State) (ws : List StepWord) : State := { s with inputs := ws }

/-- The count of free draws replaced. -/
def setDraws (s : State) (n : Nat) : State := { s with draws := n }

/-- The state at power-on for given buffer contents (`70_reset_and_hazards.md` R181): the values of `10_state.md` R33 and
`PAY = PAYLOAD_INIT`. -/
def powerOn (payloadInit : Vector Byte 26) : State where
  pos := 0#5
  flen := 0x0000#16
  acc := 0x0000#16
  ckr := 0x0000#16
  pay := payloadInit
  record := Vector.replicate 12 Config.sentinel
  status := .waiting
  done := false
  inputs := []
  draws := 0

/-- The machine right after reset: power-on with the free contents `Config.payloadInit` (R33, R181; log entry 1). -/
def reset : State := powerOn (Vector.ofFn fun i => Config.payloadInit i.val)

end State

end Sys2Proof.Machine
end

