-- ==== Sys2Proof/Machine/Flags.lean ====
section
/-! DEFINITION. The two flags, STATUS and DONE (`10_state.md` R27, R28): every write a rule makes to them, and their 1-bit
values at the ports (R32). -/

namespace Sys2Proof.Machine

/-- `x[DONE] <- 0`: every step that is not RST, before anything else (`42_step_control.md` R140). -/
def clearDone (s : State) : State := s.setDone false

/-- `x[STATUS] <- 0`: CLR and CLRBYTE (R140, R143, R144). -/
def clearStatus (s : State) : State := s.setStatus .waiting

/-- `x[STATUS] <- 1; x[DONE] <- 1`: a frame validated (`41_ingest_payload_checksum.md` R122, `60_exceptions.md` R163). -/
def signalCompletion (s : State) : State := (s.setStatus .ok).setDone true

/-- The encoding of STATUS: 0 = Waiting, 1 = Ok (`10_state.md` R27). -/
def Status.bit : Status → BitVec 1
  | .waiting => 0#1
  | .ok => 1#1

end Sys2Proof.Machine
end

