-- ==== Sys2Proof/Machine/Operands.lean ====
section
/-! DEFINITION. Operand forms: assembly of multi-byte values, high byte first (`30_encoding.md` R74), the byte predicates
(R75), the phase (`10_state.md` R29) and the ING decode word (`30_encoding.md` R72). -/

namespace Sys2Proof.Machine

/-- `{hi, lo}`: the 16-bit big-endian word of two bytes (`00_scope.md` R7). -/
def concat (hi lo : Byte) : Word := hi ++ lo

/-- `w[15:8]`. -/
def highByte (w : Word) : Byte := w.extractLsb' 8 8

/-- `w[7:0]`. -/
def lowByte (w : Word) : Byte := w.extractLsb' 0 8

/-- `zext_16(b)`. -/
def zext16 (b : Byte) : Word := b.setWidth 16

/-- The high half of a two-byte register arrives: `{b, 0x00}` (`40_ingest_header.md` R104,
`41_ingest_payload_checksum.md` R121). -/
def loadHigh (b : Byte) : Word := concat b 0x00#8

/-- The low half arrives: `{w[15:8], b}` (R105, R122). -/
def loadLow (w : Word) (b : Byte) : Word := concat (highByte w) b

/-- `isM1(b)`. -/
def isM1 (b : Byte) : Bool := b == Config.m1

/-- `isM2(b)`. -/
def isM2 (b : Byte) : Bool := b == Config.m2

/-- `lenOK(L)`, on the 16-bit combined length. -/
def lenOK (len : Word) : Bool := len == Config.len9 || len == Config.len13

/-- `ckOK(C, A)`. -/
def ckOK (c a : Word) : Bool := c == a

/-- `PHASE(POS, FLEN)` (`10_state.md` R29). The comparisons are on naturals, so FLEN + 3 cannot wrap. -/
def phaseOf (pos : Pos) (flen : Word) : Phase :=
  if pos.toNat = 0 then .awaitMarker1
  else if pos.toNat = 1 then .awaitMarker2
  else if pos.toNat = 2 then .readLengthHigh
  else if pos.toNat = 3 then .readLengthLow
  else if pos.toNat < flen.toNat + 2 then .readPayload
  else if pos.toNat = flen.toNat + 2 then .readChecksumHigh
  else if pos.toNat = flen.toNat + 3 then .readChecksumLow
  else .unreachable

/-- PHASE of a state. -/
def State.phase (s : State) : Phase := phaseOf s.pos s.flen

/-- The `bytesRemaining` that the source's `ReadPayload(bytesRemaining)` carries: `FLEN + 2 - POS` (R29). -/
def State.bytesRemaining (s : State) : Nat := s.flen.toNat + 2 - s.pos.toNat

/-- The 3-bit value of PHASE (`30_encoding.md` R73). -/
def Phase.code : Phase → BitVec 3
  | .awaitMarker1 => 0#3
  | .awaitMarker2 => 1#3
  | .readLengthHigh => 2#3
  | .readLengthLow => 3#3
  | .readPayload => 4#3
  | .readChecksumHigh => 5#3
  | .readChecksumLow => 6#3
  | .unreachable => 7#3

/-- The ING decode word `{PHASE[2:0], b[7:0]}` (`30_encoding.md` R72). -/
def ingWord (s : State) (b : Byte) : StepWord := s.phase.code ++ b

/-- `j = x[POS] - 4`, the payload index of the byte at POS (`20_memory.md` R51). On a 5-bit POS below 4, where no phase
selects ING_PAY, the difference wraps past the buffer (log entry 7). -/
def payIndex (pos : Pos) : Nat := (pos - 4#5).toNat

end Sys2Proof.Machine
end

