-- ==== Sys2Proof/Machine/Ops.lean ====
section
/-! DEFINITION. The shared operations of the rules: the checksum update, the payload buffer, publication, the discard, the
advance of POS, the reset, and the one fault. The block takes no exception (`60_exceptions.md` R160): the discard stands
where an ISA takes one (`00_scope.md` R11). -/

namespace Sys2Proof.Machine

/-- `Accumulate(b)`: `x[ACC] <- (x[ACC] + zext_16(b)) mod 2^16` (`40_ingest_header.md` R100). -/
def accumulate (b : Byte) (s : State) : State := s.setAcc (s.acc + zext16 b)

/-- `MemRead(i, 1)` (`00_scope.md` R10). -/
def memRead (p : Vector Byte 26) (i : Fin 26) : Byte := p[i.val]

/-- `MemWrite(i, 1, v)`; an index at or past PAY_CAP is never written (`00_scope.md` R10,
`41_ingest_payload_checksum.md` R120). -/
def memWrite (p : Vector Byte 26) (i : Nat) (v : Byte) : Vector Byte 26 := p.setIfInBounds i v

/-- `DecodeField(k)`: the big-endian word of payload bytes 2k and 2k+1 (`41_ingest_payload_checksum.md` R123). -/
def decodeField (p : Vector Byte 26) (k : Fin 12) : Word :=
  concat (memRead p ⟨2 * k.val, by omega⟩) (memRead p ⟨2 * k.val + 1, by omega⟩)

/-- All twelve fields, in the order of `10_state.md` R26. -/
def decodeRecord (p : Vector Byte 26) : Vector Word 12 := Vector.ofFn (decodeField p)

/-- `PAY[j] <- b` with `j = POS - 4` (`41_ingest_payload_checksum.md` R120). -/
def storePayload (b : Byte) (s : State) : State := s.setPay (memWrite s.pay (payIndex s.pos) b)

/-- Publication, atomic in the step: all twelve fields, STATUS and DONE (R122, `20_memory.md` R58). -/
def publish (s : State) : State := signalCompletion (s.setRecord (decodeRecord s.pay))

/-- `x[POS] <- x[POS] + 1`, on the 5-bit register (R120, R121; log entry 3 on POS = 31). -/
def advance (s : State) : State := s.setPos (s.pos + 1#5)

/-- `discard(c)`: the single write `x[POS] <- 0`. The class is stored nowhere (`00_scope.md` R11, `60_exceptions.md`
R161). -/
def discard (_c : DiscardClass) (s : State) : State := s.setPos 0#5

/-- `raise Unreachable("POS beyond FLEN+3")` (`42_step_control.md` R146). -/
def raiseUnreachable : Answer := .fault .unreachable

/-- `Reset()`: everything but PAY (`70_reset_and_hazards.md` R180). -/
def applyReset (s : State) : State :=
  let header := (((s.setPos 0#5).setFlen 0x0000#16).setAcc 0x0000#16).setCkr 0x0000#16
  clearDone (clearStatus (header.setRecord (Vector.replicate 12 Config.sentinel)))

end Sys2Proof.Machine
end

