-- ==== Sys2Proof/Machine/Header.lean ====
section
/-! DEFINITION. The ingest operations of the frame header, PHASE 0 to 3 (`40_ingest_header.md`). Each makes the writes of its
own rule and no others; the step-level writes to DONE and STATUS are the STEP operations' (`42_step_control.md` R140; log
entry 6). -/

namespace Sys2Proof.Machine

/-- `ING_M1` (R102). The byte of a discard is consumed, here as everywhere (R106). -/
def execIngM1 (b : Byte) (s : State) : Answer :=
  if isM1 b then .next ((s.setAcc Config.accStart).setPos 1#5)
  else .next (discard .skipM1 s)

/-- `ING_M2` (R103): ACC is updated on a match only. -/
def execIngM2 (b : Byte) (s : State) : Answer :=
  if isM2 b then .next ((accumulate b s).setPos 2#5)
  else .next (discard .badM2 s)

/-- `ING_LENH` (R104). -/
def execIngLenh (b : Byte) (s : State) : Answer :=
  .next ((accumulate b (s.setFlen (loadHigh b))).setPos 3#5)

/-- `ING_LENL` (R105): FLEN and ACC are written whether or not the length is accepted. -/
def execIngLenl (b : Byte) (s : State) : Answer :=
  let len := loadLow s.flen b
  let t := accumulate b (s.setFlen len)
  if lenOK len then .next (t.setPos 4#5) else .next (discard .badLen t)

end Sys2Proof.Machine
end

