-- ==== Sys2Proof/Machine/Payload.lean ====
section
/-! DEFINITION. The ingest operations of the payload and the checksum, PHASE 4 to 6 (`41_ingest_payload_checksum.md`), and
the unreachable form (`42_step_control.md` R146). -/

namespace Sys2Proof.Machine

/-- `ING_PAY` (R120). -/
def execIngPay (b : Byte) (s : State) : Answer :=
  .next (advance (storePayload b (accumulate b s)))

/-- `ING_CKH` (R121): the byte is not summed. -/
def execIngCkh (b : Byte) (s : State) : Answer :=
  .next (advance (s.setCkr (loadHigh b)))

/-- `ING_CKL` (R122): the record is read from PAY as it stood before the step (R123). -/
def execIngCkl (b : Byte) (s : State) : Answer :=
  let c := loadLow s.ckr b
  let t := s.setCkr c
  if ckOK c s.acc then .next ((publish t).setPos 0#5) else .next (discard .badCk t)

/-- `ING_ILL` (`42_step_control.md` R146). -/
def execIngIll (_b : Byte) (_s : State) : Answer := raiseUnreachable

end Sys2Proof.Machine
end

