-- ==== Sys2Proof/Machine/StepControl.lean ====
section
/-! DEFINITION. The STEP operations (`42_step_control.md`, `70_reset_and_hazards.md` R180) and the ingest dispatch (R145).
DONE and STATUS are read by no operation, so writing them before the ingest leaves its reads those of the pre-step state
(`00_scope.md` R9). -/

namespace Sys2Proof.Machine

/-- `Ingest(b)`: exactly one operation, selected by PHASE of the state before the step (R145). -/
def ingest (b : Byte) (s : State) : Answer :=
  match s.phase with
  | .awaitMarker1 => execIngM1 b s
  | .awaitMarker2 => execIngM2 b s
  | .readLengthHigh => execIngLenh b s
  | .readLengthLow => execIngLenl b s
  | .readPayload => execIngPay b s
  | .readChecksumHigh => execIngCkh b s
  | .readChecksumLow => execIngCkl b s
  | .unreachable => execIngIll b s

/-- `RST` (`70_reset_and_hazards.md` R180): overrides the other inputs of its step. -/
def execRst (s : State) : Answer := .next (applyReset s)

/-- `IDLE` (R141). -/
def execIdle (s : State) : Answer := .next (clearDone s)

/-- `BYTE b` (R142). -/
def execByte (b : Byte) (s : State) : Answer := ingest b (clearDone s)

/-- `CLR` (R143). -/
def execClr (s : State) : Answer := .next (clearStatus (clearDone s))

/-- `CLRBYTE b` (R144): clear, then ingest, so a validating byte leaves STATUS at 1. -/
def execClrbyte (b : Byte) (s : State) : Answer := ingest b (clearStatus (clearDone s))

end Sys2Proof.Machine
end

