-- ==== Sys2Proof/Machine/Dispatch.lean ====
section
/-! DEFINITION. One arm per row of `spec/opcode_table.json`. -/

namespace Sys2Proof.Machine

def exec (i : Instr) (s : State) : Host.Outcome State Fault Refusal :=
  match i with
  | .rst => Sys2Proof.Machine.execRst s
  | .idle => Sys2Proof.Machine.execIdle s
  | .byte b => Sys2Proof.Machine.execByte b s
  | .clr => Sys2Proof.Machine.execClr s
  | .clrbyte b => Sys2Proof.Machine.execClrbyte b s
  | .ingM1 b => Sys2Proof.Machine.execIngM1 b s
  | .ingM2 b => Sys2Proof.Machine.execIngM2 b s
  | .ingLenh b => Sys2Proof.Machine.execIngLenh b s
  | .ingLenl b => Sys2Proof.Machine.execIngLenl b s
  | .ingPay b => Sys2Proof.Machine.execIngPay b s
  | .ingCkh b => Sys2Proof.Machine.execIngCkh b s
  | .ingCkl b => Sys2Proof.Machine.execIngCkl b s
  | .ingIll b => Sys2Proof.Machine.execIngIll b s

end Sys2Proof.Machine
end

