-- ==== Sys2Proof/Machine/Fetch.lean ====
section
/-! DEFINITION. Where a step's word comes from: the input ports, sampled at the clock edge (`10_state.md` R31). The block
fetches no instruction (`20_memory.md` R62). Log entry 2. -/

namespace Sys2Proof.Machine

/-- The step word the environment drives in this step, and the state with that word taken: the oldest word lined up, or
a free word where none is. -/
def fetch (s : State) : StepWord × State :=
  match s.inputs with
  | w :: rest => (w, s.setInputs rest)
  | [] => (Config.stimulus s.draws, s.setDraws (s.draws + 1))

/-- The environment lines up the word `w` before every other (a number's bits above bit 10 are no bits of a step word,
`30_encoding.md` R70). -/
def present (s : State) (w : Nat) : State := s.setInputs (BitVec.ofNat 11 w :: s.inputs)

end Sys2Proof.Machine
end

