-- ==== Sys2Proof/Machine/Step.lean ====
section
/-! DEFINITION. One clock step: sample the ports, decode the step word, run it (`42_step_control.md` R140). -/

namespace Sys2Proof.Machine

/-- One rising clock edge. -/
def step (s : State) : Host.Outcome State Fault Refusal :=
  exec (decodeStep (fetch s).1) (fetch s).2

/-- `s` with the table word `w` as the next step's word, so that the very next step runs it (log entry 2). -/
def State.withFetchWord (s : State) (_nbits w : Nat) : State := present s w

end Sys2Proof.Machine
end

