-- ==== Sys2Proof/Machine/HostReads.lean ====
section
/-! DEFINITION. What the host reads: the output ports (`10_state.md` R32) and the three reads of `42_step_control.md` R147 to
R149. A read is a function of the state and changes nothing (`20_memory.md` R59). -/

namespace Sys2Proof.Machine

/-- The twelve fields of the record by name, in order (`10_state.md` R26). -/
inductive RecField where
  | pmSp1_0
  | pmSp2_5
  | pmSp10_0
  | pmAe1_0
  | pmAe2_5
  | pmAe10_0
  | cnt0_3
  | cnt0_5
  | cnt1_0
  | cnt2_5
  | cnt5_0
  | cnt10_0
deriving DecidableEq, Repr

/-- The field number k (`10_state.md` R26). -/
def RecField.index : RecField → Fin 12
  | .pmSp1_0 => 0
  | .pmSp2_5 => 1
  | .pmSp10_0 => 2
  | .pmAe1_0 => 3
  | .pmAe2_5 => 4
  | .pmAe10_0 => 5
  | .cnt0_3 => 6
  | .cnt0_5 => 7
  | .cnt1_0 => 8
  | .cnt2_5 => 9
  | .cnt5_0 => 10
  | .cnt10_0 => 11

/-- The port `status`. -/
def statusPort (s : State) : BitVec 1 := s.status.bit

/-- The port `done`. -/
def donePort (s : State) : BitVec 1 := BitVec.ofBool s.done

/-- The port `rec_k`. -/
def recPort (s : State) (k : Fin 12) : Word := s.record[k.val]

/-- A field of the record by its name. -/
def readField (s : State) (f : RecField) : Word := recPort s f.index

/-- Poll-once: true iff STATUS = 1 (R147). -/
def pollOnce (s : State) : Bool := statusPort s == 1#1

/-- Get-latest-record: REC[0..11] (R148). -/
def getLatestRecord (s : State) : Vector Word 12 := Vector.ofFn (recPort s)

/-- Poll-until-timeout, as the host makes it of reads of `status` at the states it samples: true iff some read saw
STATUS = 1 (R149). -/
def pollUntil (sampled : List State) : Bool := sampled.any pollOnce

end Sys2Proof.Machine
end

