-- ==== Sys2Proof/Machine/Stimulus.lean ====
section
/-! DEFINITION. Stimulus programs (`30_encoding.md` R78, R79): what each line expands to. -/

namespace Sys2Proof.Machine

/-- The two bytes of a 16-bit operand, high byte first. -/
def wordBytes (w : Word) : List Byte := [highByte w, lowByte w]

/-- A frame's bytes before its checksum: the markers, the length and the words. -/
def frameBody (len : Word) (ws : List Word) : List Byte :=
  Config.m1 :: Config.m2 :: (wordBytes len ++ ws.flatMap wordBytes)

/-- The sum of bytes modulo 2^16. -/
def byteSum : List Byte → Word
  | [] => 0#16
  | b :: bs => zext16 b + byteSum bs

/-- A frame's bytes with the checksum `c`. -/
def frameBytes (len c : Word) (ws : List Word) : List Byte := frameBody len ws ++ wordBytes c

/-- The BYTE steps of some bytes. -/
def byteSteps (bs : List Byte) : List Instr := bs.map Instr.byte

/-- What a line expands to (R78, R79). -/
def expand : Line → List Instr
  | .rst => [.rst]
  | .idle => [.idle]
  | .clr => [.clr]
  | .byte b => [.byte (BitVec.ofNat 8 b)]
  | .clrbyte b => [.clrbyte (BitVec.ofNat 8 b)]
  | .bytes bs => byteSteps (bs.map (BitVec.ofNat 8))
  | .frame len ws =>
    let l : Word := BitVec.ofNat 16 len
    let body := ws.map (BitVec.ofNat 16)
    byteSteps (frameBytes l (byteSum (frameBody l body)) body)
  | .frameck len ck ws => byteSteps (frameBytes (BitVec.ofNat 16 len) (BitVec.ofNat 16 ck) (ws.map (BitVec.ofNat 16)))
  | .rep n l => (List.replicate n (expand l)).flatten

/-- The step words of a program, one per step, in order; no program with an ill-formed line has any. -/
def assemble (p : List Line) : Option (List StepWord) :=
  if p.all Line.wellFormed then some (p.flatMap fun l => (expand l).map encode) else none

end Sys2Proof.Machine
end

