-- ==== Sys2Proof/Machine/Trace.lean ====
section
/-! DEFINITION. The names of what an ingest does, for traces and for statements: the completion event (`60_exceptions.md`
R163) and the discard classes (R161). Nothing here is state. -/

namespace Sys2Proof.Machine

/-- The byte validates a frame: ING_CKL runs and the received checksum equals ACC (`41_ingest_payload_checksum.md`
R122). -/
def validates (s : State) (b : Byte) : Bool :=
  s.phase == .readChecksumLow && ckOK (loadLow s.ckr b) s.acc

/-- The discard class the byte raises, at most one (`60_exceptions.md` R161, R165). -/
def discardOf (s : State) (b : Byte) : Option DiscardClass :=
  match s.phase with
  | .awaitMarker1 => if isM1 b then none else some .skipM1
  | .awaitMarker2 => if isM2 b then none else some .badM2
  | .readLengthHigh => none
  | .readLengthLow => if lenOK (loadLow s.flen b) then none else some .badLen
  | .readPayload => none
  | .readChecksumHigh => none
  | .readChecksumLow => if ckOK (loadLow s.ckr b) s.acc then none else some .badCk
  | .unreachable => none

end Sys2Proof.Machine
end

