-- ==== Sys2Proof/Safety.lean ====
section
/-! DEFINITION. The terms claims are stated in: the invariants of the block, and what a safe step is. -/

namespace Sys2Proof.Machine

/-- The invariant of `10_state.md` R30: once past the length check FLEN is 20 or 28, and POS does not exceed FLEN + 3. (Its
part (a), POS <= 31, is the width of POS.) -/
abbrev State.FrameInv (s : State) : Prop :=
  4 ≤ s.pos.toNat → (s.flen = 20#16 ∨ s.flen = 28#16) ∧ s.pos.toNat ≤ s.flen.toNat + 3

/-- The sum of the first `n` payload bytes, as a natural number. -/
def paySum (p : Vector Byte 26) (n : Nat) : Nat := ((p.toList.take n).map BitVec.toNat).sum

/-- How many payload bytes of the current frame have arrived, once POS >= 4: POS - 4, and no more than FLEN - 2. -/
def State.payloadSeen (s : State) : Nat := min (s.pos.toNat - 4) (s.flen.toNat - 2)

/-- What ACC holds at each position of a frame (`40_ingest_header.md` R101): the exact sum of the frame's bytes so far, from
start marker 1 through the last payload byte. -/
abbrev State.ChecksumInv (s : State) : Prop :=
  (s.pos.toNat = 1 → s.acc.toNat = 0x42) ∧
  (s.pos.toNat = 2 → s.acc.toNat = 0x42 + 0x4D) ∧
  (s.pos.toNat = 3 → s.acc.toNat = 0x42 + 0x4D + (highByte s.flen).toNat) ∧
  (4 ≤ s.pos.toNat → s.acc.toNat = 0x42 + 0x4D + (highByte s.flen).toNat + (lowByte s.flen).toNat
    + paySum s.pay s.payloadSeen)

/-- Both invariants. -/
abbrev State.Inv (s : State) : Prop := s.FrameInv ∧ s.ChecksumInv

/-- A safe state: the next step completes. -/
def State.Safe (s : State) : Prop := ∃ t, step s = .next t

end Sys2Proof.Machine
end

