-- ==== Sys2Proof/Certificates/Slice0/Obligations.lean ====
section
/-! DEFINITION. The statements about the model, for the provers. Each docstring names the rules of `spec/` it formalises. -/

open Sys2Proof Sys2Proof.Machine

/-! ## Encoding -/

/-- Words written out from the patterns of `30_encoding.md` R71 and R72 decode to the operations they stand for (the vectors
of `95_test_vectors.md` 2.1 among them). A sanity statement. -/
def Obligations.WrittenWordsDecode : Prop :=
  decodeStep 0b000_00000000#11 = .idle ∧ decodeStep 0b000_10101011#11 = .idle ∧
  decodeStep 0b001_01000010#11 = .byte 0x42#8 ∧ decodeStep 0b010_00000000#11 = .clr ∧
  decodeStep 0b010_11111111#11 = .clr ∧ decodeStep 0b011_01000010#11 = .clrbyte 0x42#8 ∧
  decodeStep 0b100_00000000#11 = .rst ∧ decodeStep 0b111_11111111#11 = .rst ∧
  decodeIng 0b000_01000010#11 = .ingM1 0x42#8 ∧ decodeIng 0b001_01001101#11 = .ingM2 0x4D#8 ∧
  decodeIng 0b010_00000000#11 = .ingLenh 0x00#8 ∧ decodeIng 0b011_00011100#11 = .ingLenl 0x1C#8 ∧
  decodeIng 0b100_10000001#11 = .ingPay 0x81#8 ∧ decodeIng 0b101_00000010#11 = .ingCkh 0x02#8 ∧
  decodeIng 0b110_10111111#11 = .ingCkl 0xBF#8 ∧ decodeIng 0b111_00000000#11 = .ingIll 0x00#8

/-- R71: every step word is the operation of the one row whose masked bits it has; the rows cover all words, the ignored
bits are ignored, and the canonical words have them 0. -/
def Obligations.StepWordsFollowOpcodeMap : Prop :=
  encode .rst = 0x400#11 ∧ encode .idle = 0x000#11 ∧ encode .clr = 0x200#11 ∧
  (∀ b : Byte, encode (.byte b) = 0x100#11 ||| b.setWidth 11 ∧ encode (.clrbyte b) = 0x300#11 ||| b.setWidth 11) ∧
  ∀ w : StepWord,
    (w &&& 0x400#11 = 0x400#11 ↔ decodeStep w = .rst) ∧
    (w &&& 0x700#11 = 0x000#11 ↔ decodeStep w = .idle) ∧
    (w &&& 0x700#11 = 0x100#11 ↔ decodeStep w = .byte (w.extractLsb' 0 8)) ∧
    (w &&& 0x700#11 = 0x200#11 ↔ decodeStep w = .clr) ∧
    (w &&& 0x700#11 = 0x300#11 ↔ decodeStep w = .clrbyte (w.extractLsb' 0 8)) ∧
    (w &&& 0x400#11 = 0x400#11 ∨ w &&& 0x700#11 = 0x000#11 ∨ w &&& 0x700#11 = 0x100#11 ∨
      w &&& 0x700#11 = 0x200#11 ∨ w &&& 0x700#11 = 0x300#11)

/-- R70, R71, R72: decoding the canonical word of an operation gives the operation back, with its operand; and encoding
what a word decodes to gives the word back with its ignored bits 0. -/
def Obligations.DecodeAndEncodeAgree : Prop :=
  (∀ i : Instr, decode i.format (encode i) = i) ∧
  (∀ w : StepWord, (decode .ing w).format = .ing ∧ encode (decode .ing w) = w) ∧
  (∀ w : StepWord, (decode .step w).format = .step ∧
    encode (decode .step w) =
      if w.getLsbD 10 then 0x400#11 else if w.getLsbD 8 then w else w &&& 0x700#11)

/-- R79: the pseudo-instructions expand to the bytes the rule lists; the checksum S is the sum of the frame's bytes modulo
2^16, written here on natural numbers. What a well-formed frame needs is the shape the rule gives. -/
def Obligations.PseudoInstructionsExpand : Prop :=
  (∀ bs : List Nat, expand (.bytes bs) = bs.map fun b => .byte (BitVec.ofNat 8 b)) ∧
  (∀ (len ck : Nat) (ws : List Nat), len < 65536 → ck < 65536 → (∀ w ∈ ws, w < 65536) →
    let body : List Nat := 0x42 :: 0x4D :: len / 256 :: len % 256 :: ws.flatMap fun w => [w / 256, w % 256]
    let sum : Nat := body.sum % 65536
    expand (.frame len ws) = (body ++ [sum / 256, sum % 256]).map (fun b => .byte (BitVec.ofNat 8 b)) ∧
    expand (.frameck len ck ws) = (body ++ [ck / 256, ck % 256]).map (fun b => .byte (BitVec.ofNat 8 b))) ∧
  (∀ (n : Nat) (l : Line), expand (.rep (n + 1) l) = expand l ++ expand (.rep n l)) ∧
  (∀ l : Line, expand (.rep 0 l) = []) ∧
  (∀ (len : Nat) (ws : List Nat),
    isFrameShape len ws = true ↔ (len = 20 ∨ len = 28) ∧ ws.length = (len - 2) / 2)

/-! ## The step -/

/-- A step runs the decoded word. Where the step's word comes from (the queue, or a free word of the environment) is the
model's choice, log entry 2. -/
def Obligations.StepRunsTheDecodedWord : Prop :=
  (∀ (s : State) (w : StepWord) (ws : List StepWord), s.inputs = w :: ws →
    step s = exec (decodeStep w) { s with inputs := ws }) ∧
  (∀ s : State, s.inputs = [] →
    step s = exec (decodeStep (Config.stimulus s.draws)) { s with draws := s.draws + 1 }) ∧
  (∀ (s : State) (nbits w : Nat), step (s.withFetchWord nbits w) = exec (decodeStep (BitVec.ofNat 11 w)) s)

/-- R140: one step by the values of its four ports: reset overrides all; otherwise DONE is cleared, then STATUS if asked,
then the byte is ingested. So an ingest that validates beats the clear of its own step. -/
def Obligations.StepFollowsPorts : Prop :=
  (∀ (b : Byte) (s : State), validates s b = true →
    ∃ t : State, exec (decodeStep (portWord false true true b)) s = .next t ∧ t.status = .ok) ∧
  ∀ (r c v : Bool) (b : Byte) (s : State),
    exec (decodeStep (portWord r c v b)) s =
      if r then
        .next { s with
          pos := 0#5, flen := 0x0000#16, acc := 0x0000#16, ckr := 0x0000#16
          record := Vector.replicate 12 0xFFFF#16, status := .waiting, done := false }
      else
        let s₁ : State := { s with done := false }
        let s₂ : State := if c then { s₁ with status := .waiting } else s₁
        if v then ingest b s₂ else .next s₂

/-- R29: PHASE by the values of POS and FLEN, with its 3-bit code (R73), and the bytes remaining of ReadPayload. -/
def Obligations.PhaseFollowsPosition : Prop :=
  ∀ s : State,
    (s.pos.toNat = 0 → s.phase = .awaitMarker1 ∧ s.phase.code = 0#3) ∧
    (s.pos.toNat = 1 → s.phase = .awaitMarker2 ∧ s.phase.code = 1#3) ∧
    (s.pos.toNat = 2 → s.phase = .readLengthHigh ∧ s.phase.code = 2#3) ∧
    (s.pos.toNat = 3 → s.phase = .readLengthLow ∧ s.phase.code = 3#3) ∧
    (4 ≤ s.pos.toNat → s.pos.toNat < s.flen.toNat + 2 →
      s.phase = .readPayload ∧ s.phase.code = 4#3 ∧ 1 ≤ s.bytesRemaining ∧
      s.bytesRemaining + 2 ≤ s.flen.toNat ∧ s.bytesRemaining + s.pos.toNat = s.flen.toNat + 2) ∧
    (4 ≤ s.pos.toNat → s.pos.toNat = s.flen.toNat + 2 → s.phase = .readChecksumHigh ∧ s.phase.code = 5#3) ∧
    (4 ≤ s.pos.toNat → s.pos.toNat = s.flen.toNat + 3 → s.phase = .readChecksumLow ∧ s.phase.code = 6#3) ∧
    (4 ≤ s.pos.toNat → s.flen.toNat + 3 < s.pos.toNat → s.phase = .unreachable ∧ s.phase.code = 7#3)

/-- R72, R145: the ING word's phase bits select one operation each, and BYTE and CLRBYTE run exactly the operation that the
ING decode selects for the phase before the step. -/
def Obligations.IngestRunsTheSelectedOperation : Prop :=
  (∀ b : Byte,
    decodeIng (Phase.awaitMarker1.code ++ b) = .ingM1 b ∧ decodeIng (Phase.awaitMarker2.code ++ b) = .ingM2 b ∧
    decodeIng (Phase.readLengthHigh.code ++ b) = .ingLenh b ∧ decodeIng (Phase.readLengthLow.code ++ b) = .ingLenl b ∧
    decodeIng (Phase.readPayload.code ++ b) = .ingPay b ∧ decodeIng (Phase.readChecksumHigh.code ++ b) = .ingCkh b ∧
    decodeIng (Phase.readChecksumLow.code ++ b) = .ingCkl b ∧ decodeIng (Phase.unreachable.code ++ b) = .ingIll b) ∧
  ∀ (b : Byte) (s : State),
    exec (.byte b) s = exec (decodeIng (s.phase.code ++ b)) { s with done := false } ∧
    exec (.clrbyte b) s = exec (decodeIng (s.phase.code ++ b)) { s with done := false, status := .waiting }

/-! ## Reset -/

/-- R33, R181: the power-on state, for every contents of PAY; the model's reset state is one of them, and RST leads to
it from every state but for PAY. -/
def Obligations.PowerOnState : Prop :=
  (∀ p : Vector Byte 26,
    (State.powerOn p).pos = 0#5 ∧ (State.powerOn p).flen = 0x0000#16 ∧ (State.powerOn p).acc = 0x0000#16 ∧
    (State.powerOn p).ckr = 0x0000#16 ∧ (State.powerOn p).pay = p ∧
    (∀ k : Fin 12, (State.powerOn p).record[k.val] = 0xFFFF#16) ∧
    (State.powerOn p).status = .waiting ∧ (State.powerOn p).done = false) ∧
  (∃ p : Vector Byte 26, State.reset = State.powerOn p) ∧
  (∀ s : State, exec .rst s = .next { State.powerOn s.pay with inputs := s.inputs, draws := s.draws })

/-- R180: RST writes every register its rule lists, and neither PAY nor the environment's words; the other ports of its step
are ignored, and a further RST changes nothing. -/
def Obligations.RstRestoresResetValues : Prop :=
  (∀ (c v : Bool) (b : Byte), decodeStep (portWord true c v b) = .rst) ∧
  (∀ s t : State, exec .rst s = .next t → exec .rst t = .next t) ∧
  ∀ s : State, ∃ t : State, exec .rst s = .next t ∧
    t.pos = 0#5 ∧ t.flen = 0x0000#16 ∧ t.acc = 0x0000#16 ∧ t.ckr = 0x0000#16 ∧
    (∀ k : Fin 12, t.record[k.val] = 0xFFFF#16) ∧ t.status = .waiting ∧ t.done = false ∧
    (∀ i : Fin 26, memRead t.pay i = memRead s.pay i) ∧ t.inputs = s.inputs ∧ t.draws = s.draws

/-! ## Step control -/

/-- R141: IDLE clears DONE and leaves everything else. -/
def Obligations.IdleOnlyEndsThePulse : Prop :=
  ∀ s : State, exec .idle s = .next { s with done := false }

/-- R143: CLR clears STATUS and DONE and leaves everything else, the record and a frame in progress among it. -/
def Obligations.ClrClearsStatusAndDone : Prop :=
  ∀ s : State, exec .clr s = .next { s with status := .waiting, done := false }

/-- R142: outside PHASE 7 a BYTE step completes, for every byte; it sets STATUS and DONE exactly when the byte completes a
frame whose checksum matches, and otherwise leaves STATUS and clears DONE. -/
def Obligations.ByteStepCompletes : Prop :=
  ∀ (b : Byte) (s : State), s.phase ≠ .unreachable →
    ∃ t : State, exec (.byte b) s = .next t ∧ ingest b { s with done := false } = .next t ∧
      t.inputs = s.inputs ∧ t.draws = s.draws ∧
      (s.phase = .readChecksumLow ∧ (s.ckr.extractLsb' 8 8 ++ b : Word) = s.acc →
        t.done = true ∧ t.status = .ok) ∧
      (¬(s.phase = .readChecksumLow ∧ (s.ckr.extractLsb' 8 8 ++ b : Word) = s.acc) →
        t.done = false ∧ t.status = s.status)

/-- R144: outside PHASE 7 a CLRBYTE step completes; STATUS ends at 1 exactly when the byte validates a frame, else at 0. -/
def Obligations.ClrbyteStepCompletes : Prop :=
  ∀ (b : Byte) (s : State), s.phase ≠ .unreachable →
    ∃ t : State, exec (.clrbyte b) s = .next t ∧
      ingest b { s with done := false, status := .waiting } = .next t ∧
      t.inputs = s.inputs ∧ t.draws = s.draws ∧
      (s.phase = .readChecksumLow ∧ (s.ckr.extractLsb' 8 8 ++ b : Word) = s.acc →
        t.done = true ∧ t.status = .ok) ∧
      (¬(s.phase = .readChecksumLow ∧ (s.ckr.extractLsb' 8 8 ++ b : Word) = s.acc) →
        t.done = false ∧ t.status = .waiting)

/-- R144, R183: a clear in the step of a byte changes nothing but STATUS: the CLRBYTE step is the BYTE step with STATUS 1 or
0 as the byte validated or not. -/
def Obligations.ClearDoesNotDisturbIngest : Prop :=
  ∀ (b : Byte) (s t : State), exec (.byte b) s = .next t →
    exec (.clrbyte b) s = .next { t with status := if t.done then .ok else .waiting }

/-- R146: ING_ILL faults in every state; so does a BYTE or CLRBYTE step in PHASE 7, and the fault is kept: every longer run
ends in it. PHASE 7 is POS >= 4 and POS > FLEN + 3, and no run from power-on gets there. -/
def Obligations.UnreachablePhaseFaults : Prop :=
  (∀ (b : Byte) (s : State), exec (.ingIll b) s = .fault .unreachable) ∧
  (∀ (b : Byte) (s : State), s.phase = .unreachable →
    exec (.byte b) s = .fault .unreachable ∧ exec (.clrbyte b) s = .fault .unreachable) ∧
  (∀ (k : Nat) (b : Byte) (s : State) (ws : List StepWord), s.phase = .unreachable →
    s.inputs = (0x100#11 ||| b.setWidth 11) :: ws → Sys2Proof.core.run (k + 1) s = .fault .unreachable) ∧
  (∀ s : State, s.phase = .unreachable ↔ 4 ≤ s.pos.toNat ∧ s.flen.toNat + 3 < s.pos.toNat) ∧
  (∀ (k : Nat) (p : Vector Byte 26) (ws : List StepWord) (f : Fault),
    Sys2Proof.core.run k ({ State.powerOn p with inputs := ws } : State) ≠ .fault f)

/-- R11, R146, R160: nothing else faults, and no operation is refused. For an ING operation in a state whose phase does not
select it, which no step meets, this is the model's choice, log entry 7. -/
def Obligations.OnlyPhaseSevenStops : Prop :=
  (∀ (i : Instr) (s : State) (f : Fault), exec i s = .fault f →
    (∃ b, i = .ingIll b) ∨ ((∃ b, i = .byte b ∨ i = .clrbyte b) ∧ s.phase = .unreachable)) ∧
  (∀ (i : Instr) (s : State) (q : Refusal), exec i s ≠ .refused q)

/-- Every operation but ING_ILL, BYTE and CLRBYTE completes in every state. For an ING operation in a state whose phase does
not select it, which no step meets, this is the model's choice, log entry 7. -/
def Obligations.OperationsCompleteInEveryState : Prop :=
  ∀ (b : Byte) (s : State), ∀ i ∈ [Instr.rst, .idle, .clr, .ingM1 b, .ingM2 b, .ingLenh b, .ingLenl b, .ingPay b,
    .ingCkh b, .ingCkl b], ∃ t : State, exec i s = .next t ∧ t.inputs = s.inputs ∧ t.draws = s.draws

/-! ## Header operations -/

/-- R102: ING_M1 at the position that selects it, and the BYTE step there. -/
def Obligations.Marker1StartsAFrame : Prop :=
  ∀ (b : Byte) (s : State), s.pos = 0#5 →
    exec (.ingM1 b) s =
      .next (if b = 0x42#8 then { s with acc := 0x0042#16, pos := 1#5 } else { s with pos := 0#5 }) ∧
    exec (.byte b) s = .next (if b = 0x42#8
      then { s with acc := 0x0042#16, pos := 1#5, done := false } else { s with done := false })

/-- R103: ING_M2 at the position that selects it, and the BYTE step there: a mismatching byte, 0x42 among them, is
consumed. -/
def Obligations.Marker2IsCheckedNotRetested : Prop :=
  ∀ (b : Byte) (s : State), s.pos = 1#5 →
    exec (.ingM2 b) s =
      .next (if b = 0x4D#8 then { s with acc := s.acc + b.setWidth 16, pos := 2#5 } else { s with pos := 0#5 }) ∧
    exec (.byte b) s = .next (if b = 0x4D#8
      then { s with acc := s.acc + b.setWidth 16, pos := 2#5, done := false }
      else { s with pos := 0#5, done := false })

/-- R104: ING_LENH at the position that selects it, and the BYTE step there. -/
def Obligations.LengthHighIsStored : Prop :=
  ∀ (b : Byte) (s : State), s.pos = 2#5 →
    exec (.ingLenh b) s =
      .next { s with flen := b ++ 0x00#8, acc := s.acc + b.setWidth 16, pos := 3#5 } ∧
    exec (.byte b) s =
      .next { s with flen := b ++ 0x00#8, acc := s.acc + b.setWidth 16, pos := 3#5, done := false }

/-- R105: ING_LENL at the position that selects it, and the BYTE step there: FLEN and ACC are written either way, and only
the combined lengths 20 and 28 pass. -/
def Obligations.LengthLowIsChecked : Prop :=
  ∀ (b : Byte) (s : State), s.pos = 3#5 →
    let len : Word := s.flen.extractLsb' 8 8 ++ b
    exec (.ingLenl b) s =
      .next { s with
        flen := len, acc := s.acc + b.setWidth 16
        pos := if len = 20#16 ∨ len = 28#16 then 4#5 else 0#5 } ∧
    exec (.byte b) s =
      .next { s with
        flen := len, acc := s.acc + b.setWidth 16, done := false
        pos := if len = 20#16 ∨ len = 28#16 then 4#5 else 0#5 }

/-- R107: the header operations, each at the position that selects it, write only POS, FLEN and ACC. -/
def Obligations.HeaderWritesOnlyPosFlenAcc : Prop :=
  ∀ (b : Byte) (s : State) (i : Instr),
    (i, s.pos) ∈ [(Instr.ingM1 b, 0#5), (.ingM2 b, 1#5), (.ingLenh b, 2#5), (.ingLenl b, 3#5)] →
    ∃ t : State, exec i s = .next t ∧
      (∀ j : Fin 26, memRead t.pay j = memRead s.pay j) ∧ t.ckr = s.ckr ∧
      (∀ k : Fin 12, t.record[k.val] = s.record[k.val]) ∧ t.status = s.status ∧ t.done = s.done ∧
      t.inputs = s.inputs ∧ t.draws = s.draws

/-! ## Payload and checksum operations -/

/-- R120: ING_PAY in the phase that selects it: the byte is summed and stored at PAY[POS - 4], every other byte of PAY is
kept (all of them where POS - 4 is past the buffer), and POS advances. A POS of 31 lies past every payload position; what it
advances to is log entry 3 and not stated. -/
def Obligations.PayloadByteIsStoredAndSummed : Prop :=
  ∀ (b : Byte) (s : State), s.phase = .readPayload →
    ∃ t : State, exec (.ingPay b) s = .next t ∧
      t.acc = s.acc + b.setWidth 16 ∧
      (s.pos.toNat < 31 → t.pos.toNat = s.pos.toNat + 1) ∧
      (∀ i : Fin 26, memRead t.pay i = if i.val = s.pos.toNat - 4 then b else memRead s.pay i) ∧
      t.flen = s.flen ∧ t.ckr = s.ckr ∧ (∀ k : Fin 12, t.record[k.val] = s.record[k.val]) ∧
      t.status = s.status ∧ t.done = s.done ∧ t.inputs = s.inputs ∧ t.draws = s.draws

/-- R121: ING_CKH in the phase that selects it: the byte is the high half of CKR and is not summed. -/
def Obligations.ChecksumHighIsStored : Prop :=
  ∀ (b : Byte) (s : State), s.phase = .readChecksumHigh →
    ∃ t : State, exec (.ingCkh b) s = .next t ∧
      t.ckr = b ++ 0x00#8 ∧ (s.pos.toNat < 31 → t.pos.toNat = s.pos.toNat + 1) ∧
      t.acc = s.acc ∧ t.flen = s.flen ∧ (∀ i : Fin 26, memRead t.pay i = memRead s.pay i) ∧
      (∀ k : Fin 12, t.record[k.val] = s.record[k.val]) ∧ t.status = s.status ∧ t.done = s.done ∧
      t.inputs = s.inputs ∧ t.draws = s.draws

/-- R122, R123: ING_CKL in the phase that selects it: on a match the record takes words 0 to 11 of PAY as it stood, STATUS and DONE become 1; on a mismatch
only CKR and POS are written. -/
def Obligations.ChecksumLowValidatesAndPublishes : Prop :=
  ∀ (b : Byte) (s : State), s.phase = .readChecksumLow →
    let c : Word := s.ckr.extractLsb' 8 8 ++ b
    (c = s.acc → ∃ t : State, exec (.ingCkl b) s = .next t ∧
      (∀ k : Fin 12, t.record[k.val] =
        (memRead s.pay ⟨2 * k.val, by omega⟩ ++ memRead s.pay ⟨2 * k.val + 1, by omega⟩ : Word)) ∧
      t = { s with ckr := c, record := t.record, status := .ok, done := true, pos := 0#5 }) ∧
    (c ≠ s.acc → exec (.ingCkl b) s = .next { s with ckr := c, pos := 0#5 })

/-! ## Rules of the whole block -/

/-- R20, column "written by": in one step of any word, each register changes only in the steps the table names. -/
def Obligations.RegistersWrittenOnlyAsListed : Prop :=
  ∀ (w : StepWord) (s t : State), exec (decodeStep w) s = .next t →
    let reset : Prop := w.getLsbD 10 = true
    let ingests : Prop := w.getLsbD 10 = false ∧ w.getLsbD 8 = true
    (t.pos ≠ s.pos → reset ∨ ingests) ∧
    (t.flen ≠ s.flen → reset ∨ (ingests ∧ (s.phase = .readLengthHigh ∨ s.phase = .readLengthLow))) ∧
    (t.acc ≠ s.acc → reset ∨ (ingests ∧ s.phase ∈ [Phase.awaitMarker1, .awaitMarker2, .readLengthHigh,
      .readLengthLow, .readPayload])) ∧
    (t.ckr ≠ s.ckr → reset ∨ (ingests ∧ (s.phase = .readChecksumHigh ∨ s.phase = .readChecksumLow))) ∧
    (t.pay ≠ s.pay → ingests ∧ s.phase = .readPayload) ∧
    (t.record ≠ s.record → reset ∨ (ingests ∧ s.phase = .readChecksumLow ∧ t.done = true)) ∧
    (t.status ≠ s.status → reset ∨ w.getLsbD 9 = true ∨
      (ingests ∧ s.phase = .readChecksumLow ∧ t.done = true)) ∧
    t.inputs = s.inputs ∧ t.draws = s.draws

/-- R21: an ingest advances POS by one or returns it to 0, in every state of the invariant of R30. -/
def Obligations.PositionAdvancesOrReturns : Prop :=
  ∀ (b : Byte) (s : State), s.FrameInv → ∀ i ∈ [Instr.byte b, .clrbyte b],
    ∃ t : State, exec i s = .next t ∧ (t.pos.toNat = s.pos.toNat + 1 ∨ t.pos = 0#5)

/-- R25: in a step of any word a byte of PAY changes only when the step ingests a payload byte, and then only the byte of
index POS - 4, which becomes that byte; nothing clears the buffer, RST least of all. -/
def Obligations.PayloadBufferIsNeverCleared : Prop :=
  ∀ (w : StepWord) (s t : State), exec (decodeStep w) s = .next t → ∀ i : Fin 26,
    let writes : Prop :=
      w.getLsbD 10 = false ∧ w.getLsbD 8 = true ∧ s.phase = .readPayload ∧ s.pos.toNat = i.val + 4
    (writes → memRead t.pay i = w.extractLsb' 0 8) ∧ (¬writes → memRead t.pay i = memRead s.pay i)

/-- R27: STATUS goes to 1 only by a validating ingest, and to 0 only by the clear input or RST. -/
def Obligations.StatusChangesOnlyAsListed : Prop :=
  ∀ (w : StepWord) (s t : State), exec (decodeStep w) s = .next t →
    (s.status = .waiting → t.status = .ok →
      w.getLsbD 10 = false ∧ w.getLsbD 8 = true ∧ validates s (w.extractLsb' 0 8) = true) ∧
    (s.status = .ok → t.status = .waiting → w.getLsbD 10 = true ∨ w.getLsbD 9 = true)

/-- R28, R163: DONE is 1 after a step exactly when the step's ingest validated a frame, and STATUS is then 1. -/
def Obligations.DoneMarksValidation : Prop :=
  ∀ (w : StepWord) (s t : State), exec (decodeStep w) s = .next t →
    (t.done = true ↔ w.getLsbD 10 = false ∧ w.getLsbD 8 = true ∧ s.phase = .readChecksumLow ∧
      (s.ckr.extractLsb' 8 8 ++ w.extractLsb' 0 8 : Word) = s.acc) ∧
    (t.done = true → t.status = .ok ∧ t.pos = 0#5)

/-- R161: which byte raises which discard class, and what the BYTE step then writes: POS, DONE, and what the rule of the
operation wrote before; STATUS, the record and PAY are left. -/
def Obligations.DiscardsAreSilent : Prop :=
  ∀ (b : Byte) (s : State),
    (discardOf s b = some .skipM1 ↔ s.phase = .awaitMarker1 ∧ b ≠ 0x42#8) ∧
    (discardOf s b = some .badM2 ↔ s.phase = .awaitMarker2 ∧ b ≠ 0x4D#8) ∧
    (discardOf s b = some .badLen ↔ s.phase = .readLengthLow ∧
      (s.flen.extractLsb' 8 8 ++ b : Word) ≠ 20#16 ∧ (s.flen.extractLsb' 8 8 ++ b : Word) ≠ 28#16) ∧
    (discardOf s b = some .badCk ↔ s.phase = .readChecksumLow ∧ (s.ckr.extractLsb' 8 8 ++ b : Word) ≠ s.acc) ∧
    (∀ c, discardOf s b = some c → exec (.byte b) s = .next { s with
      pos := 0#5, done := false
      flen := if c = .badLen then s.flen.extractLsb' 8 8 ++ b else s.flen
      acc := if c = .badLen then s.acc + b.setWidth 16 else s.acc
      ckr := if c = .badCk then s.ckr.extractLsb' 8 8 ++ b else s.ckr })

/-- R106: the byte that causes a discard is consumed, and the next offered byte is the one tested as marker 1. -/
def Obligations.OffendingByteIsConsumed : Prop :=
  ∀ (b b' : Byte) (s : State) (c : DiscardClass), discardOf s b = some c →
    ∃ t u : State, exec (.byte b) s = .next t ∧ exec (.byte b') t = .next u ∧
      t.pos = 0#5 ∧ u.pos = if b' = 0x42#8 then 1#5 else 0#5

/-- R127: once past the length check and before the last checksum byte, a step that is not RST keeps FLEN and moves POS by one
per byte, whatever the byte; without a byte POS stays. -/
def Obligations.NoResyncInsideAFrame : Prop :=
  ∀ (w : StepWord) (s : State), s.FrameInv → 4 ≤ s.pos.toNat → s.pos.toNat ≤ s.flen.toNat + 2 →
    w.getLsbD 10 = false →
    ∃ t : State, exec (decodeStep w) s = .next t ∧ t.flen = s.flen ∧
      t.pos.toNat = s.pos.toNat + (if w.getLsbD 8 then 1 else 0)

/-- R165: simultaneous inputs: RST overrides the rest, and a validating byte beats the clear of its own step. -/
def Obligations.SimultaneousInputsAreOrdered : Prop :=
  (∀ (c v : Bool) (b : Byte) (s : State),
    exec (decodeStep (portWord true c v b)) s = exec .rst s) ∧
  (∀ (b : Byte) (s : State), validates s b = true →
    ∃ t : State, exec (decodeStep (portWord false true true b)) s = .next t ∧ t.status = .ok ∧ t.done = true) ∧
  (∀ (v : Bool) (b : Byte) (s t : State), (v = true → validates s b = false) →
    exec (decodeStep (portWord false true v b)) s = .next t → t.status = .waiting ∧ t.done = false)

/-- R147, R148: the host's reads are the registers; a field read by its name is the field of its number. -/
def Obligations.HostReadsShowTheRegisters : Prop :=
  ∀ s : State,
    (pollOnce s = true ↔ s.status = .ok) ∧ (statusPort s = 1#1 ↔ s.status = .ok) ∧
    (donePort s = 1#1 ↔ s.done = true) ∧ getLatestRecord s = s.record ∧
    readField s .pmSp1_0 = s.record[0] ∧ readField s .pmSp2_5 = s.record[1] ∧
    readField s .pmSp10_0 = s.record[2] ∧ readField s .pmAe1_0 = s.record[3] ∧
    readField s .pmAe2_5 = s.record[4] ∧ readField s .pmAe10_0 = s.record[5] ∧
    readField s .cnt0_3 = s.record[6] ∧ readField s .cnt0_5 = s.record[7] ∧
    readField s .cnt1_0 = s.record[8] ∧ readField s .cnt2_5 = s.record[9] ∧
    readField s .cnt5_0 = s.record[10] ∧ readField s .cnt10_0 = s.record[11]

/-! ## Invariants -/

/-- R30: the frame invariant holds at power-on for every buffer contents, every step keeps it from every state that has it,
and in a state that has it PHASE is not 7. -/
def Obligations.FrameInvariantIsKept : Prop :=
  (∀ p : Vector Byte 26, (State.powerOn p).FrameInv) ∧
  (∀ s t : State, s.FrameInv → step s = .next t → t.FrameInv) ∧
  (∀ s : State, s.FrameInv → s.phase ≠ .unreachable)

/-- Both invariants hold at reset, whatever PAY holds and whatever words are lined up. -/
def Obligations.ResetMeetsTheInvariants : Prop :=
  State.reset.Inv ∧
  (∀ (p : Vector Byte 26) (ws : List StepWord), ({ State.powerOn p with inputs := ws } : State).Inv)

/-- R101: ACC is the exact sum of the frame's bytes from start marker 1 on, in every state that steps lead to from a state
where it is; at the checksum it is the sum of the whole header and payload, within the bounds the rule gives. -/
def Obligations.ChecksumCoversTheFrame : Prop :=
  (∀ s t : State, s.Inv → step s = .next t → t.Inv) ∧
  (∀ s : State, s.Inv → s.phase = .readChecksumLow →
    s.acc.toNat = 0x42 + 0x4D + (s.flen.extractLsb' 8 8).toNat + (s.flen.extractLsb' 0 8).toNat +
      paySum s.pay (s.flen.toNat - 2) ∧
    (s.flen = 28#16 → 0x00AB ≤ s.acc.toNat ∧ s.acc.toNat ≤ 0x1A91) ∧
    (s.flen = 20#16 → 0x00A3 ≤ s.acc.toNat ∧ s.acc.toNat ≤ 0x1291))

/-- R30, R146: from every state of the frame invariant, and so from power-on, every run completes, whatever is driven. -/
def Obligations.EveryRunCompletes : Prop :=
  ∀ (k : Nat) (s : State), s.FrameInv → ∃ t : State, Sys2Proof.core.run k s = .next t ∧ t.FrameInv

/-! ## Frames -/

/-- R13, R101, R122, R124, R126: a frame of declared length 20 or 28 fed byte by byte at position 0, from any state. It takes
FLEN + 4 steps. If its last two bytes are the sum of the bytes before them, the record takes words 0 to 11 of PAY, whose first
FLEN - 2 bytes are the payload and whose others are as they were; otherwise STATUS and the record stay. -/
def Obligations.FrameFedAtPositionZero : Prop :=
  ∀ (len : Nat) (payload : List Byte) (hi lo : Byte) (s : State) (rest : List StepWord),
    (len = 20 ∨ len = 28) → payload.length = len - 2 → s.pos = 0#5 →
    s.inputs = (([0x42#8, 0x4D#8, 0x00#8, BitVec.ofNat 8 len] ++ payload ++ [hi, lo]).map
      fun b => 0x100#11 ||| b.setWidth 11) ++ rest →
    ∃ t : State, Sys2Proof.core.run (len + 4) s = .next t ∧ t.pos = 0#5 ∧ t.inputs = rest ∧
      (∀ i : Fin 26, memRead t.pay i = (payload[i.val]?).getD (memRead s.pay i)) ∧
      (hi.toNat * 256 + lo.toNat = 0x42 + 0x4D + len + (payload.map BitVec.toNat).sum →
        t.status = .ok ∧ t.done = true ∧ ∀ k : Fin 12, t.record[k.val] =
          (memRead t.pay ⟨2 * k.val, by omega⟩ ++ memRead t.pay ⟨2 * k.val + 1, by omega⟩ : Word)) ∧
      (hi.toNat * 256 + lo.toNat ≠ 0x42 + 0x4D + len + (payload.map BitVec.toNat).sum →
        t.status = s.status ∧ t.done = false ∧ t.record = s.record)

/-- R126, R186: a run over lined-up words that starts at position 0 and ends with DONE = 1 has ingested at least 24 bytes;
after a validation POS is 0 (`DoneMarksValidation`), so two pulses are that far apart. -/
def Obligations.ValidationNeedsTwentyFourBytes : Prop :=
  ∀ (ws rest : List StepWord) (s t : State), s.pos = 0#5 → s.inputs = ws ++ rest → ws ≠ [] →
    Sys2Proof.core.run ws.length s = .next t → t.done = true →
    24 ≤ ws.countP fun w => !w.getLsbD 10 && w.getLsbD 8

/-- R141, R187: no number of IDLE steps abandons a frame: after n of them only DONE can have changed. -/
def Obligations.IdleNeverAbandonsAFrame : Prop :=
  ∀ (n : Nat) (s : State) (rest : List StepWord), s.inputs = List.replicate n 0x000#11 ++ rest →
    Sys2Proof.core.run n s = .next { s with inputs := rest, done := s.done && n == 0 }

/-- R148: a record that is the sentinel stays the sentinel through every run in which no step ends with DONE = 1. -/
def Obligations.SentinelUntilFirstValidation : Prop :=
  ∀ (k : Nat) (s t : State), (∀ i : Fin 12, s.record[i.val] = 0xFFFF#16) →
    (∀ (j : Nat) (u : State), 1 ≤ j → j ≤ k → Sys2Proof.core.run j s = .next u → u.done = false) →
    Sys2Proof.core.run k s = .next t → ∀ i : Fin 12, t.record[i.val] = 0xFFFF#16

/-! ## What cannot be observed -/

/-- R125: PAY[24..25] is never published: two runs that differ only there show the same outputs after any number of steps. -/
def Obligations.ThirteenthWordIsNotPublished : Prop :=
  ∀ (k : Nat) (s t : State) (p : Vector Byte 26),
    (∀ i : Fin 26, i.val < 24 → memRead p i = memRead s.pay i) →
    Sys2Proof.core.run k s = .next t →
    ∃ t' : State, Sys2Proof.core.run k { s with pay := p } = .next t' ∧
      t'.record = t.record ∧ t'.status = t.status ∧ t'.done = t.done ∧ t'.pos = t.pos

/-- R33 (D16), `93_implementation_defined.md` U5: at position 0 the values of FLEN, ACC and CKR cannot be observed: two runs
that start there and differ only in them show the same outputs after any number of steps. -/
def Obligations.HeaderRegistersUnobservableAtReset : Prop :=
  ∀ (k : Nat) (s t : State) (f a c : Word), s.pos = 0#5 → Sys2Proof.core.run k s = .next t →
    ∃ t' : State, Sys2Proof.core.run k { s with flen := f, acc := a, ckr := c } = .next t' ∧
      t'.record = t.record ∧ t'.status = t.status ∧ t'.done = t.done ∧ t'.pos = t.pos ∧ t'.pay = t.pay
end

