-- ==== Sys2Proof/Laws/State.lean ====
section
/-! SUPPORT. One lemma per field per update of State, true by rfl: no later proof unfolds a record update. -/

namespace Sys2Proof.Machine.State

variable (s : State)

section setPos
variable (p : Pos)
@[simp] theorem setPos_pos : (s.setPos p).pos = p := rfl
@[simp] theorem setPos_flen : (s.setPos p).flen = s.flen := rfl
@[simp] theorem setPos_acc : (s.setPos p).acc = s.acc := rfl
@[simp] theorem setPos_ckr : (s.setPos p).ckr = s.ckr := rfl
@[simp] theorem setPos_pay : (s.setPos p).pay = s.pay := rfl
@[simp] theorem setPos_record : (s.setPos p).record = s.record := rfl
@[simp] theorem setPos_status : (s.setPos p).status = s.status := rfl
@[simp] theorem setPos_done : (s.setPos p).done = s.done := rfl
@[simp] theorem setPos_inputs : (s.setPos p).inputs = s.inputs := rfl
@[simp] theorem setPos_draws : (s.setPos p).draws = s.draws := rfl
end setPos

section setFlen
variable (w : Word)
@[simp] theorem setFlen_pos : (s.setFlen w).pos = s.pos := rfl
@[simp] theorem setFlen_flen : (s.setFlen w).flen = w := rfl
@[simp] theorem setFlen_acc : (s.setFlen w).acc = s.acc := rfl
@[simp] theorem setFlen_ckr : (s.setFlen w).ckr = s.ckr := rfl
@[simp] theorem setFlen_pay : (s.setFlen w).pay = s.pay := rfl
@[simp] theorem setFlen_record : (s.setFlen w).record = s.record := rfl
@[simp] theorem setFlen_status : (s.setFlen w).status = s.status := rfl
@[simp] theorem setFlen_done : (s.setFlen w).done = s.done := rfl
@[simp] theorem setFlen_inputs : (s.setFlen w).inputs = s.inputs := rfl
@[simp] theorem setFlen_draws : (s.setFlen w).draws = s.draws := rfl
end setFlen

section setAcc
variable (w : Word)
@[simp] theorem setAcc_pos : (s.setAcc w).pos = s.pos := rfl
@[simp] theorem setAcc_flen : (s.setAcc w).flen = s.flen := rfl
@[simp] theorem setAcc_acc : (s.setAcc w).acc = w := rfl
@[simp] theorem setAcc_ckr : (s.setAcc w).ckr = s.ckr := rfl
@[simp] theorem setAcc_pay : (s.setAcc w).pay = s.pay := rfl
@[simp] theorem setAcc_record : (s.setAcc w).record = s.record := rfl
@[simp] theorem setAcc_status : (s.setAcc w).status = s.status := rfl
@[simp] theorem setAcc_done : (s.setAcc w).done = s.done := rfl
@[simp] theorem setAcc_inputs : (s.setAcc w).inputs = s.inputs := rfl
@[simp] theorem setAcc_draws : (s.setAcc w).draws = s.draws := rfl
end setAcc

section setCkr
variable (w : Word)
@[simp] theorem setCkr_pos : (s.setCkr w).pos = s.pos := rfl
@[simp] theorem setCkr_flen : (s.setCkr w).flen = s.flen := rfl
@[simp] theorem setCkr_acc : (s.setCkr w).acc = s.acc := rfl
@[simp] theorem setCkr_ckr : (s.setCkr w).ckr = w := rfl
@[simp] theorem setCkr_pay : (s.setCkr w).pay = s.pay := rfl
@[simp] theorem setCkr_record : (s.setCkr w).record = s.record := rfl
@[simp] theorem setCkr_status : (s.setCkr w).status = s.status := rfl
@[simp] theorem setCkr_done : (s.setCkr w).done = s.done := rfl
@[simp] theorem setCkr_inputs : (s.setCkr w).inputs = s.inputs := rfl
@[simp] theorem setCkr_draws : (s.setCkr w).draws = s.draws := rfl
end setCkr

section setPay
variable (p : Vector Byte 26)
@[simp] theorem setPay_pos : (s.setPay p).pos = s.pos := rfl
@[simp] theorem setPay_flen : (s.setPay p).flen = s.flen := rfl
@[simp] theorem setPay_acc : (s.setPay p).acc = s.acc := rfl
@[simp] theorem setPay_ckr : (s.setPay p).ckr = s.ckr := rfl
@[simp] theorem setPay_pay : (s.setPay p).pay = p := rfl
@[simp] theorem setPay_record : (s.setPay p).record = s.record := rfl
@[simp] theorem setPay_status : (s.setPay p).status = s.status := rfl
@[simp] theorem setPay_done : (s.setPay p).done = s.done := rfl
@[simp] theorem setPay_inputs : (s.setPay p).inputs = s.inputs := rfl
@[simp] theorem setPay_draws : (s.setPay p).draws = s.draws := rfl
end setPay

section setRecord
variable (r : Vector Word 12)
@[simp] theorem setRecord_pos : (s.setRecord r).pos = s.pos := rfl
@[simp] theorem setRecord_flen : (s.setRecord r).flen = s.flen := rfl
@[simp] theorem setRecord_acc : (s.setRecord r).acc = s.acc := rfl
@[simp] theorem setRecord_ckr : (s.setRecord r).ckr = s.ckr := rfl
@[simp] theorem setRecord_pay : (s.setRecord r).pay = s.pay := rfl
@[simp] theorem setRecord_record : (s.setRecord r).record = r := rfl
@[simp] theorem setRecord_status : (s.setRecord r).status = s.status := rfl
@[simp] theorem setRecord_done : (s.setRecord r).done = s.done := rfl
@[simp] theorem setRecord_inputs : (s.setRecord r).inputs = s.inputs := rfl
@[simp] theorem setRecord_draws : (s.setRecord r).draws = s.draws := rfl
end setRecord

section setStatus
variable (v : Status)
@[simp] theorem setStatus_pos : (s.setStatus v).pos = s.pos := rfl
@[simp] theorem setStatus_flen : (s.setStatus v).flen = s.flen := rfl
@[simp] theorem setStatus_acc : (s.setStatus v).acc = s.acc := rfl
@[simp] theorem setStatus_ckr : (s.setStatus v).ckr = s.ckr := rfl
@[simp] theorem setStatus_pay : (s.setStatus v).pay = s.pay := rfl
@[simp] theorem setStatus_record : (s.setStatus v).record = s.record := rfl
@[simp] theorem setStatus_status : (s.setStatus v).status = v := rfl
@[simp] theorem setStatus_done : (s.setStatus v).done = s.done := rfl
@[simp] theorem setStatus_inputs : (s.setStatus v).inputs = s.inputs := rfl
@[simp] theorem setStatus_draws : (s.setStatus v).draws = s.draws := rfl
end setStatus

section setDone
variable (v : Bool)
@[simp] theorem setDone_pos : (s.setDone v).pos = s.pos := rfl
@[simp] theorem setDone_flen : (s.setDone v).flen = s.flen := rfl
@[simp] theorem setDone_acc : (s.setDone v).acc = s.acc := rfl
@[simp] theorem setDone_ckr : (s.setDone v).ckr = s.ckr := rfl
@[simp] theorem setDone_pay : (s.setDone v).pay = s.pay := rfl
@[simp] theorem setDone_record : (s.setDone v).record = s.record := rfl
@[simp] theorem setDone_status : (s.setDone v).status = s.status := rfl
@[simp] theorem setDone_done : (s.setDone v).done = v := rfl
@[simp] theorem setDone_inputs : (s.setDone v).inputs = s.inputs := rfl
@[simp] theorem setDone_draws : (s.setDone v).draws = s.draws := rfl
end setDone

section setInputs
variable (ws : List StepWord)
@[simp] theorem setInputs_pos : (s.setInputs ws).pos = s.pos := rfl
@[simp] theorem setInputs_flen : (s.setInputs ws).flen = s.flen := rfl
@[simp] theorem setInputs_acc : (s.setInputs ws).acc = s.acc := rfl
@[simp] theorem setInputs_ckr : (s.setInputs ws).ckr = s.ckr := rfl
@[simp] theorem setInputs_pay : (s.setInputs ws).pay = s.pay := rfl
@[simp] theorem setInputs_record : (s.setInputs ws).record = s.record := rfl
@[simp] theorem setInputs_status : (s.setInputs ws).status = s.status := rfl
@[simp] theorem setInputs_done : (s.setInputs ws).done = s.done := rfl
@[simp] theorem setInputs_inputs : (s.setInputs ws).inputs = ws := rfl
@[simp] theorem setInputs_draws : (s.setInputs ws).draws = s.draws := rfl
end setInputs

section setDraws
variable (n : Nat)
@[simp] theorem setDraws_pos : (s.setDraws n).pos = s.pos := rfl
@[simp] theorem setDraws_flen : (s.setDraws n).flen = s.flen := rfl
@[simp] theorem setDraws_acc : (s.setDraws n).acc = s.acc := rfl
@[simp] theorem setDraws_ckr : (s.setDraws n).ckr = s.ckr := rfl
@[simp] theorem setDraws_pay : (s.setDraws n).pay = s.pay := rfl
@[simp] theorem setDraws_record : (s.setDraws n).record = s.record := rfl
@[simp] theorem setDraws_status : (s.setDraws n).status = s.status := rfl
@[simp] theorem setDraws_done : (s.setDraws n).done = s.done := rfl
@[simp] theorem setDraws_inputs : (s.setDraws n).inputs = s.inputs := rfl
@[simp] theorem setDraws_draws : (s.setDraws n).draws = n := rfl
end setDraws

/-! PHASE reads POS and FLEN alone. -/

@[simp] theorem phase_setAcc (w : Word) : (s.setAcc w).phase = s.phase := rfl
@[simp] theorem phase_setCkr (w : Word) : (s.setCkr w).phase = s.phase := rfl
@[simp] theorem phase_setPay (p : Vector Byte 26) : (s.setPay p).phase = s.phase := rfl
@[simp] theorem phase_setRecord (r : Vector Word 12) : (s.setRecord r).phase = s.phase := rfl
@[simp] theorem phase_setStatus (v : Status) : (s.setStatus v).phase = s.phase := rfl
@[simp] theorem phase_setDone (v : Bool) : (s.setDone v).phase = s.phase := rfl
@[simp] theorem phase_setInputs (ws : List StepWord) : (s.setInputs ws).phase = s.phase := rfl
@[simp] theorem phase_setDraws (n : Nat) : (s.setDraws n).phase = s.phase := rfl

/-! The power-on state, field by field (`10_state.md` R33). -/

section powerOn
variable (p : Vector Byte 26)
@[simp] theorem powerOn_pos : (powerOn p).pos = 0#5 := rfl
@[simp] theorem powerOn_flen : (powerOn p).flen = 0#16 := rfl
@[simp] theorem powerOn_acc : (powerOn p).acc = 0#16 := rfl
@[simp] theorem powerOn_ckr : (powerOn p).ckr = 0#16 := rfl
@[simp] theorem powerOn_pay : (powerOn p).pay = p := rfl
@[simp] theorem powerOn_record : (powerOn p).record = Vector.replicate 12 Config.sentinel := rfl
@[simp] theorem powerOn_status : (powerOn p).status = .waiting := rfl
@[simp] theorem powerOn_done : (powerOn p).done = false := rfl
@[simp] theorem powerOn_inputs : (powerOn p).inputs = [] := rfl
@[simp] theorem powerOn_draws : (powerOn p).draws = 0 := rfl
end powerOn

end Sys2Proof.Machine.State
end

