-- ==== Sys2Proof/Laws/Operands.lean ====
section
/-! SUPPORT. What the operand forms and the phase say, once. -/

namespace Sys2Proof.Machine

/-- `{hi, lo}` is `hi * 256 + lo` (`00_scope.md` R7). -/
theorem toNat_concat (hi lo : Byte) : (concat hi lo).toNat = hi.toNat * 256 + lo.toNat := by
  have happ : (concat hi lo).toNat = hi.toNat <<< 8 ||| lo.toNat := BitVec.toNat_append hi lo
  rw [happ, ← Nat.shiftLeft_add_eq_or_of_lt lo.isLt, Nat.shiftLeft_eq]

theorem toNat_highByte (w : Word) : (highByte w).toNat = w.toNat / 256 := by
  have := w.isLt
  simp only [highByte, BitVec.extractLsb'_toNat, Nat.shiftRight_eq_div_pow]
  omega

theorem toNat_lowByte (w : Word) : (lowByte w).toNat = w.toNat % 256 := by
  simp only [lowByte, BitVec.extractLsb'_toNat, Nat.shiftRight_eq_div_pow]
  omega

@[simp] theorem highByte_concat (hi lo : Byte) : highByte (concat hi lo) = hi := by
  have := lo.isLt
  apply BitVec.eq_of_toNat_eq
  rw [toNat_highByte, toNat_concat]
  omega

@[simp] theorem lowByte_concat (hi lo : Byte) : lowByte (concat hi lo) = lo := by
  have := lo.isLt
  apply BitVec.eq_of_toNat_eq
  rw [toNat_lowByte, toNat_concat]
  omega

@[simp] theorem concat_highByte_lowByte (w : Word) : concat (highByte w) (lowByte w) = w := by
  apply BitVec.eq_of_toNat_eq
  rw [toNat_concat, toNat_highByte, toNat_lowByte]
  omega

@[simp] theorem toNat_zext16 (b : Byte) : (zext16 b).toNat = b.toNat := by
  have := b.isLt
  simp only [zext16, BitVec.toNat_setWidth]
  omega

@[simp] theorem highByte_loadLow (w : Word) (b : Byte) : highByte (loadLow w b) = highByte w := by
  simp [loadLow]

@[simp] theorem lowByte_loadLow (w : Word) (b : Byte) : lowByte (loadLow w b) = b := by
  simp [loadLow]

@[simp] theorem highByte_loadHigh (b : Byte) : highByte (loadHigh b) = b := by
  simp [loadHigh]

@[simp] theorem isM1_iff (b : Byte) : isM1 b = true ↔ b = 0x42#8 := by
  simp [isM1, Config.m1]

@[simp] theorem isM2_iff (b : Byte) : isM2 b = true ↔ b = 0x4D#8 := by
  simp [isM2, Config.m2]

@[simp] theorem lenOK_iff (len : Word) : lenOK len = true ↔ len = 20#16 ∨ len = 28#16 := by
  simp [lenOK, Config.len9, Config.len13]

@[simp] theorem ckOK_iff (c a : Word) : ckOK c a = true ↔ c = a := by
  simp [ckOK]

/-- A combined length with a non-zero high byte is never accepted (`30_encoding.md` R75). -/
theorem highByte_of_lenOK {len : Word} (h : lenOK len = true) : highByte len = 0#8 := by
  rcases (lenOK_iff len).mp h with rfl | rfl <;> decide

/-! PHASE by the values of POS and FLEN, one lemma per phase. -/

section phase
variable (s : State)

theorem phase_awaitMarker1_iff : s.phase = .awaitMarker1 ↔ s.pos.toNat = 0 := by
  simp only [State.phase, phaseOf]; split_ifs <;> simp_all

theorem phase_awaitMarker2_iff : s.phase = .awaitMarker2 ↔ s.pos.toNat = 1 := by
  simp only [State.phase, phaseOf]; split_ifs <;> simp_all

theorem phase_readLengthHigh_iff : s.phase = .readLengthHigh ↔ s.pos.toNat = 2 := by
  simp only [State.phase, phaseOf]; split_ifs <;> simp_all

theorem phase_readLengthLow_iff : s.phase = .readLengthLow ↔ s.pos.toNat = 3 := by
  simp only [State.phase, phaseOf]; split_ifs <;> simp_all

theorem phase_readPayload_iff :
    s.phase = .readPayload ↔ 4 ≤ s.pos.toNat ∧ s.pos.toNat < s.flen.toNat + 2 := by
  simp only [State.phase, phaseOf]; split_ifs <;> simp <;> omega

theorem phase_readChecksumHigh_iff :
    s.phase = .readChecksumHigh ↔ 4 ≤ s.pos.toNat ∧ s.pos.toNat = s.flen.toNat + 2 := by
  simp only [State.phase, phaseOf]; split_ifs <;> simp <;> omega

theorem phase_readChecksumLow_iff :
    s.phase = .readChecksumLow ↔ 4 ≤ s.pos.toNat ∧ s.pos.toNat = s.flen.toNat + 3 := by
  simp only [State.phase, phaseOf]; split_ifs <;> simp <;> omega

theorem phase_unreachable_iff :
    s.phase = .unreachable ↔ 4 ≤ s.pos.toNat ∧ s.flen.toNat + 3 < s.pos.toNat := by
  simp only [State.phase, phaseOf]; split_ifs <;> simp <;> omega

end phase

/-- The payload index on the positions that hold payload bytes (`20_memory.md` R51). -/
theorem payIndex_of_le {p : Pos} (h : 4 ≤ p.toNat) : payIndex p = p.toNat - 4 := by
  have := p.isLt
  simp only [payIndex, BitVec.toNat_sub, BitVec.toNat_ofNat]
  omega

end Sys2Proof.Machine
end

