-- ==== Sys2Proof/Laws/Ops.lean ====
section
/-! SUPPORT. For each shared operation, what it does to the state, as updates; the read and write laws of the payload buffer
and of the record. -/

namespace Sys2Proof.Machine

variable (s : State) (b : Byte)

/-! The operations as updates of State. -/

@[simp] theorem accumulate_eq : accumulate b s = s.setAcc (s.acc + zext16 b) := rfl

@[simp] theorem storePayload_eq :
    storePayload b s = s.setPay (memWrite s.pay (payIndex s.pos) b) := rfl

@[simp] theorem advance_eq : advance s = s.setPos (s.pos + 1#5) := rfl

@[simp] theorem discard_eq (c : DiscardClass) : discard c s = s.setPos 0#5 := rfl

@[simp] theorem clearDone_eq : clearDone s = s.setDone false := rfl

@[simp] theorem clearStatus_eq : clearStatus s = s.setStatus .waiting := rfl

@[simp] theorem publish_eq :
    publish s = ((s.setRecord (decodeRecord s.pay)).setStatus .ok).setDone true := rfl

/-- `Reset()` gives the power-on state over the old buffer, and leaves the environment alone. -/
theorem applyReset_eq :
    applyReset s = ((State.powerOn s.pay).setInputs s.inputs).setDraws s.draws := rfl

/-! The payload buffer: a read after a write. -/

section memory
variable (p : Vector Byte 26) (v : Byte)

theorem memRead_memWrite_same (i : Fin 26) : memRead (memWrite p i.val v) i = v := by
  simp [memRead, memWrite]

theorem memRead_memWrite_other {i : Nat} {j : Fin 26} (h : i ≠ j.val) :
    memRead (memWrite p i v) j = memRead p j := by
  simp [memRead, memWrite, Vector.getElem_setIfInBounds_ne, h]

/-- A write at or past PAY_CAP is dropped (`92_eei_decisions.md` D11). -/
theorem memWrite_dropped {i : Nat} (h : 26 ≤ i) : memWrite p i v = p :=
  Vector.setIfInBounds_eq_of_size_le h

@[simp] theorem decodeRecord_getElem (k : Fin 12) : (decodeRecord p)[k.val] = decodeField p k := by
  simp [decodeRecord]

/-- A write outside the two bytes of a field leaves the field as it was. -/
theorem decodeField_memWrite_other {i : Nat} {k : Fin 12} (h₀ : i ≠ 2 * k.val)
    (h₁ : i ≠ 2 * k.val + 1) : decodeField (memWrite p i v) k = decodeField p k := by
  simp only [decodeField]
  rw [memRead_memWrite_other p v (j := ⟨2 * k.val, _⟩) h₀,
    memRead_memWrite_other p v (j := ⟨2 * k.val + 1, _⟩) h₁]

end memory

/-- Adding one to a position below 31 does not wrap (`10_state.md` R21). -/
theorem toNat_pos_succ {p : Pos} (h : p.toNat < 31) : (p + 1#5).toNat = p.toNat + 1 := by
  simp only [BitVec.toNat_add, BitVec.toNat_ofNat]
  omega

end Sys2Proof.Machine
end

