-- ==== Sys2Proof/Laws/Checksum.lean ====
section
/-! SUPPORT. The exact sum of payload bytes, and ACC as a sum that does not wrap (`40_ingest_header.md` R100, R101). -/

namespace Sys2Proof.Machine

variable (p q : Vector Byte 26)

theorem paySum_zero : paySum p 0 = 0 := rfl

theorem paySum_succ {n : Nat} (h : n < 26) :
    paySum p (n + 1) = paySum p n + (memRead p ⟨n, h⟩).toNat := by
  have hl : n < p.toList.length := by simpa using h
  unfold paySum
  rw [List.take_succ_eq_append_getElem hl, List.map_append, List.sum_append]
  simp [memRead]

/-- The sum reads the first `n` bytes alone. -/
theorem paySum_congr {p q : Vector Byte 26} :
    ∀ {n : Nat}, n ≤ 26 → (∀ i : Fin 26, i.val < n → memRead p i = memRead q i) → paySum p n = paySum q n
  | 0, _, _ => rfl
  | n + 1, hn, h => by
    have hn' : n < 26 := hn
    rw [paySum_succ p hn', paySum_succ q hn', paySum_congr (by omega) fun i hi => h i (by omega),
      h ⟨n, hn'⟩ (Nat.lt_succ_self n)]

theorem paySum_le : ∀ {n : Nat}, n ≤ 26 → paySum p n ≤ 255 * n
  | 0, _ => Nat.le_refl 0
  | n + 1, hn => by
    have hn' : n < 26 := hn
    have ih := paySum_le (n := n) (by omega)
    have hb := (memRead p ⟨n, hn'⟩).isLt
    rw [paySum_succ p hn']
    omega

/-- Storing the next payload byte adds it to the sum. -/
theorem paySum_memWrite {n : Nat} (h : n < 26) (b : Byte) :
    paySum (memWrite p n b) (n + 1) = paySum p n + b.toNat := by
  rw [paySum_succ _ h]
  congr 1
  · exact paySum_congr (by omega) fun i hi => memRead_memWrite_other p b (by omega)
  · rw [memRead_memWrite_same p b ⟨n, h⟩]

/-- Below 2^16 the accumulator holds the exact sum. -/
theorem toNat_add_zext16 {a : Word} {b : Byte} (h : a.toNat + b.toNat < 65536) :
    (a + zext16 b).toNat = a.toNat + b.toNat := by
  rw [BitVec.toNat_add, toNat_zext16]
  omega

end Sys2Proof.Machine
end

