-- ==== Sys2Proof/Laws/Decode.lean ====
section
/-! SUPPORT. The decoder on words made of fields: a step word from its ports, an ING word from a phase and a byte. -/

namespace Sys2Proof

@[simp] theorem stepR_portWord (r c v : Bool) (b : Byte) : stepR (portWord r c v b) = r := by
  revert r c v b; decide

@[simp] theorem stepC_portWord (r c v : Bool) (b : Byte) : stepC (portWord r c v b) = c := by
  revert r c v b; decide

@[simp] theorem stepV_portWord (r c v : Bool) (b : Byte) : stepV (portWord r c v b) = v := by
  revert r c v b; decide

@[simp] theorem wordByte_portWord (r c v : Bool) (b : Byte) : wordByte (portWord r c v b) = b := by
  revert r c v b; decide

/-- The byte of a word made of three bits and a byte. -/
theorem wordByte_append (p : BitVec 3) (b : Byte) : wordByte (p ++ b) = b := by
  revert p b; decide

/-- The step word that BYTE b is written as (`30_encoding.md` R71). -/
theorem decodeStep_byteWord (b : Byte) : decodeStep (0x100#11 ||| b.setWidth 11) = .byte b := by
  revert b; decide

end Sys2Proof
end

