-- ==== Sys2Proof/Laws/Exec.lean ====
section
/-! SUPPORT. What an ingest and a step can do, once: later proofs split on these cases and never unfold the step. -/

namespace Sys2Proof.Machine

variable {s t : State} {b : Byte}

/-- Everything an ingest can do when it answers a next state, one case per phase that is no fault
(`42_step_control.md` R145). -/
theorem ingest_next_cases (h : ingest b s = .next t) :
    (s.pos.toNat = 0 ∧ t = if b = 0x42#8 then (s.setAcc 0x42#16).setPos 1#5 else s.setPos 0#5) ∨
    (s.pos.toNat = 1 ∧ t = if b = 0x4D#8 then (s.setAcc (s.acc + zext16 b)).setPos 2#5 else s.setPos 0#5) ∨
    (s.pos.toNat = 2 ∧ t = ((s.setFlen (loadHigh b)).setAcc (s.acc + zext16 b)).setPos 3#5) ∨
    (s.pos.toNat = 3 ∧ t = ((s.setFlen (loadLow s.flen b)).setAcc (s.acc + zext16 b)).setPos
      (if lenOK (loadLow s.flen b) then 4#5 else 0#5)) ∨
    (4 ≤ s.pos.toNat ∧ s.pos.toNat < s.flen.toNat + 2 ∧
      t = ((s.setAcc (s.acc + zext16 b)).setPay (memWrite s.pay (payIndex s.pos) b)).setPos (s.pos + 1#5)) ∨
    (4 ≤ s.pos.toNat ∧ s.pos.toNat = s.flen.toNat + 2 ∧ t = (s.setCkr (loadHigh b)).setPos (s.pos + 1#5)) ∨
    (4 ≤ s.pos.toNat ∧ s.pos.toNat = s.flen.toNat + 3 ∧
      t = if loadLow s.ckr b = s.acc then (publish (s.setCkr (loadLow s.ckr b))).setPos 0#5
        else (s.setCkr (loadLow s.ckr b)).setPos 0#5) := by
  unfold ingest at h
  split at h
  · next hp =>
    refine .inl ⟨(phase_awaitMarker1_iff s).mp hp, ?_⟩
    simp only [execIngM1, isM1_iff] at h
    split at h <;> cases h <;> simp_all [Config.accStart]
  · next hp =>
    refine .inr (.inl ⟨(phase_awaitMarker2_iff s).mp hp, ?_⟩)
    simp only [execIngM2, isM2_iff] at h
    split at h <;> cases h <;> simp_all
  · next hp =>
    cases h
    exact .inr (.inr (.inl ⟨(phase_readLengthHigh_iff s).mp hp, rfl⟩))
  · next hp =>
    refine .inr (.inr (.inr (.inl ⟨(phase_readLengthLow_iff s).mp hp, ?_⟩)))
    simp only [execIngLenl] at h
    split at h <;> next hl => cases h; simp [hl]
  · next hp =>
    cases h
    obtain ⟨h₁, h₂⟩ := (phase_readPayload_iff s).mp hp
    exact .inr (.inr (.inr (.inr (.inl ⟨h₁, h₂, rfl⟩))))
  · next hp =>
    cases h
    obtain ⟨h₁, h₂⟩ := (phase_readChecksumHigh_iff s).mp hp
    exact .inr (.inr (.inr (.inr (.inr (.inl ⟨h₁, h₂, rfl⟩)))))
  · next hp =>
    obtain ⟨h₁, h₂⟩ := (phase_readChecksumLow_iff s).mp hp
    refine .inr (.inr (.inr (.inr (.inr (.inr ⟨h₁, h₂, ?_⟩)))))
    simp only [execIngCkl, ckOK_iff] at h
    split at h <;> next hc => cases h; simp [hc]
  · cases h

/-- An ingest completes exactly outside PHASE 7 (`42_step_control.md` R146). -/
theorem ingest_completes (h : s.phase ≠ .unreachable) : ∃ t, ingest b s = .next t := by
  unfold ingest
  split
  · unfold execIngM1; split <;> exact ⟨_, rfl⟩
  · unfold execIngM2; split <;> exact ⟨_, rfl⟩
  · exact ⟨_, rfl⟩
  · unfold execIngLenl; simp only; split <;> exact ⟨_, rfl⟩
  · exact ⟨_, rfl⟩
  · exact ⟨_, rfl⟩
  · unfold execIngCkl; simp only; split <;> exact ⟨_, rfl⟩
  · next hp => exact absurd hp h

/-- What a STEP operation is, with the word's control bits: a next state of its own, or an ingest after the flags are
cleared (`42_step_control.md` R140). -/
theorem exec_decodeStep_cases (w : StepWord) (s : State) :
    (stepR w = true ∧ exec (decodeStep w) s = .next (applyReset s)) ∨
    (stepR w = false ∧ stepC w = false ∧ stepV w = false ∧
      exec (decodeStep w) s = .next (s.setDone false)) ∨
    (stepR w = false ∧ stepC w = true ∧ stepV w = false ∧
      exec (decodeStep w) s = .next ((s.setDone false).setStatus .waiting)) ∨
    (stepR w = false ∧ stepC w = false ∧ stepV w = true ∧
      exec (decodeStep w) s = ingest (wordByte w) (s.setDone false)) ∨
    (stepR w = false ∧ stepC w = true ∧ stepV w = true ∧
      exec (decodeStep w) s = ingest (wordByte w) ((s.setDone false).setStatus .waiting)) := by
  unfold decodeStep
  cases stepR w <;> cases stepC w <;> cases stepV w <;> simp [exec, execRst, execIdle, execByte, execClr, execClrbyte]

/-! The step, by what the environment has lined up. -/

theorem step_of_inputs {w : StepWord} {ws : List StepWord} (h : s.inputs = w :: ws) :
    step s = exec (decodeStep w) (s.setInputs ws) := by
  simp only [step, fetch, h]

theorem step_of_nil (h : s.inputs = []) :
    step s = exec (decodeStep (Config.stimulus s.draws)) (s.setDraws (s.draws + 1)) := by
  simp only [step, fetch, h]

/-- Sampling the ports touches no register of the block. -/
theorem fetch_registers (s : State) :
    (fetch s).2.pos = s.pos ∧ (fetch s).2.flen = s.flen ∧ (fetch s).2.acc = s.acc ∧
    (fetch s).2.ckr = s.ckr ∧ (fetch s).2.pay = s.pay ∧ (fetch s).2.record = s.record ∧
    (fetch s).2.status = s.status ∧ (fetch s).2.done = s.done := by
  unfold fetch
  split <;> exact ⟨rfl, rfl, rfl, rfl, rfl, rfl, rfl, rfl⟩

end Sys2Proof.Machine
end

