-- ==== Sys2Proof/Laws/PerInstr.lean ====
section
/-! SUPPORT. Statements made per instruction. `RowMatch`: the canonical word of an operation, under its row's mask, is its
row's match (`30_encoding.md` R71, R72). -/

namespace Sys2Proof.Laws.RowMatch

/-- The encoded word lies in its own row of the opcode map. -/
def Statement (i : Instr) : Prop := encode i &&& rowMask i = rowMatch i

theorem rst : Statement .rst := by unfold Statement; decide
theorem idle : Statement .idle := by unfold Statement; decide
theorem byte (b : Byte) : Statement (.byte b) := by unfold Statement; revert b; decide
theorem clr : Statement .clr := by unfold Statement; decide
theorem clrbyte (b : Byte) : Statement (.clrbyte b) := by unfold Statement; revert b; decide
theorem ingM1 (b : Byte) : Statement (.ingM1 b) := by unfold Statement; revert b; decide
theorem ingM2 (b : Byte) : Statement (.ingM2 b) := by unfold Statement; revert b; decide
theorem ingLenh (b : Byte) : Statement (.ingLenh b) := by unfold Statement; revert b; decide
theorem ingLenl (b : Byte) : Statement (.ingLenl b) := by unfold Statement; revert b; decide
theorem ingPay (b : Byte) : Statement (.ingPay b) := by unfold Statement; revert b; decide
theorem ingCkh (b : Byte) : Statement (.ingCkh b) := by unfold Statement; revert b; decide
theorem ingCkl (b : Byte) : Statement (.ingCkl b) := by unfold Statement; revert b; decide
theorem ingIll (b : Byte) : Statement (.ingIll b) := by unfold Statement; revert b; decide

end Sys2Proof.Laws.RowMatch
end

