-- ==== Sys2Proof/Laws/Run.lean ====
section
/-! SUPPORT. Runs of the machine, one step at a time, and the induction over a run, packaged once. -/

namespace Sys2Proof.Machine

variable {s t : State} {k : Nat}

@[simp] theorem run_zero (s : State) : Sys2Proof.core.run 0 s = .next s := rfl

/-- One step of a run, for any machine behind the host's interface. -/
theorem run_succ (M : Host.Core) (k : Nat) (s : M.State) :
    M.run (k + 1) s =
      match M.step s with
      | .next s' => M.run k s'
      | .fault r => .fault r
      | .refused r => .refused r := rfl

theorem run_succ_of_next (h : step s = .next t) :
    Sys2Proof.core.run (k + 1) s = Sys2Proof.core.run k t := by
  have hs : Sys2Proof.core.step s = .next t := h
  refine (run_succ Sys2Proof.core k s).trans ?_
  rw [hs]

theorem run_succ_of_fault {f : Fault} (h : step s = .fault f) :
    Sys2Proof.core.run (k + 1) s = .fault f := by
  have hs : Sys2Proof.core.step s = .fault f := h
  refine (run_succ Sys2Proof.core k s).trans ?_
  rw [hs]

/-- A completed run of `k + 1` steps is a completed step and a completed run of `k` steps. -/
theorem step_of_run_succ (h : Sys2Proof.core.run (k + 1) s = .next t) :
    ∃ u, step s = .next u ∧ Sys2Proof.core.run k u = .next t := by
  replace h := (run_succ Sys2Proof.core k s).symm.trans h
  split at h
  · next u hu => exact ⟨u, hu, h⟩
  · cases h
  · cases h

/-- A property that every step keeps holds at the end of every completed run. -/
theorem run_induction {P : State → Prop} (hstep : ∀ u v, P u → step u = .next v → P v) :
    ∀ {k : Nat} {s t : State}, P s → Sys2Proof.core.run k s = .next t → P t
  | 0, _, _, hs, h => by cases h; exact hs
  | _ + 1, _, _, hs, h => by
    obtain ⟨u, hu, hr⟩ := step_of_run_succ h
    exact run_induction hstep (hstep _ _ hs hu) hr

/-- Where every step from a property completes and keeps it, every run completes and keeps it. -/
theorem run_completes {P : State → Prop} (hstep : ∀ u, P u → ∃ v, step u = .next v ∧ P v) :
    ∀ (k : Nat) {s : State}, P s → ∃ t, Sys2Proof.core.run k s = .next t ∧ P t
  | 0, s, hs => ⟨s, rfl, hs⟩
  | k + 1, s, hs => by
    obtain ⟨u, hu, hp⟩ := hstep s hs
    obtain ⟨t, ht, hpt⟩ := run_completes hstep k hp
    exact ⟨t, (run_succ_of_next hu).trans ht, hpt⟩

/-- Two runs: where every step from related states gives related states, every run does. -/
theorem run_related {R : State → State → Prop}
    (hstep : ∀ s u t, R s u → step s = .next t → ∃ v, step u = .next v ∧ R t v) :
    ∀ (k : Nat) {s u t : State}, R s u → Sys2Proof.core.run k s = .next t →
      ∃ v, Sys2Proof.core.run k u = .next v ∧ R t v
  | 0, _, u, _, hR, h => by cases h; exact ⟨u, rfl, hR⟩
  | k + 1, _, _, _, hR, h => by
    obtain ⟨x, hx, hr⟩ := step_of_run_succ h
    obtain ⟨y, hy, hR'⟩ := hstep _ _ _ hR hx
    obtain ⟨v, hv, hRv⟩ := run_related hstep k hR' hr
    exact ⟨v, (run_succ_of_next hy).trans hv, hRv⟩

/-- A run that starts with a completed run goes on from its end. -/
theorem run_add (j : Nat) : ∀ {k : Nat} {s t : State}, Sys2Proof.core.run k s = .next t →
    Sys2Proof.core.run (k + j) s = Sys2Proof.core.run j t
  | 0, _, _, h => by cases h; rw [Nat.zero_add]
  | k + 1, _, _, h => by
    obtain ⟨u, hu, hr⟩ := step_of_run_succ h
    rw [Nat.add_right_comm, run_succ_of_next hu, run_add j hr]

end Sys2Proof.Machine
end

