-- ==== Sys2Proof/Tests/Slice0.lean ====
section
/-! SUPPORT. The model's own tests. Expected values are hand-checked vectors of `spec/95_test_vectors.md` or the examples
of the rules, never an answer of the model. Then, for every obligation with hypotheses, a state that meets them. -/

namespace Sys2Proof.Tests

open Sys2Proof.Machine

/-! ## Well-formedness: an ill-formed term for each check -/

theorem test_wellFormed_byte_operand : Line.wellFormed (.byte 256) = false := by decide
theorem test_wellFormed_clrbyte_operand : Line.wellFormed (.clrbyte 256) = false := by decide
theorem test_wellFormed_bytes_operand : Line.wellFormed (.bytes [0x42, 256]) = false := by decide
theorem test_wellFormed_bytes_empty : Line.wellFormed (.bytes []) = false := by decide
theorem test_wellFormed_frame_length : Line.wellFormed (.frame 65536 [0]) = false := by decide
theorem test_wellFormed_frame_word : Line.wellFormed (.frame 20 [65536]) = false := by decide
theorem test_wellFormed_frame_empty : Line.wellFormed (.frame 20 []) = false := by decide
theorem test_wellFormed_frameck_checksum : Line.wellFormed (.frameck 20 65536 [0]) = false := by decide
theorem test_wellFormed_repeat_line : Line.wellFormed (.rep 2 (.byte 256)) = false := by decide
theorem test_wellFormed_accepts : Line.wellFormed (.rep 2 (.frameck 65535 0 [65535])) = true := by decide
theorem test_isStep_refuses_ing : Instr.isStep (.ingM1 0x42#8) = false := by decide
theorem test_isFrameShape_refuses : isFrameShape 28 [0, 0, 0] = false := by decide
theorem test_assemble_refuses : assemble [.rst, .byte 256] = none := by decide

/-! ## Decoding: words written out from `30_encoding.md` R71, R72 (and `95_test_vectors.md` 2.1) -/

theorem test_decode_rst : decodeTableWord 16 0x400 = some .rst := by decide
theorem test_decode_rst_ignores : decodeStep 0b11101000010#11 = .rst := by decide
theorem test_decode_idle : decodeTableWord 16 0x000 = some .idle := by decide
theorem test_decode_idle_ignores : decodeStep 0b00010101011#11 = .idle := by decide
theorem test_decode_byte : decodeTableWord 16 0x142 = some (.byte 0x42#8) := by decide
theorem test_decode_clr : decodeStep 0b01011111111#11 = .clr := by decide
theorem test_decode_clrbyte : decodeStep 0b01101000010#11 = .clrbyte 0x42#8 := by decide
theorem test_decode_ingM1 : decodeIng 0b00001000010#11 = .ingM1 0x42#8 := by decide
theorem test_decode_ingM2 : decodeIng 0b00101001101#11 = .ingM2 0x4D#8 := by decide
theorem test_decode_ingLenh : decodeIng 0b01000000001#11 = .ingLenh 0x01#8 := by decide
theorem test_decode_ingLenl : decodeIng 0b01100011100#11 = .ingLenl 0x1C#8 := by decide
theorem test_decode_ingPay : decodeIng 0b10010000001#11 = .ingPay 0x81#8 := by decide
theorem test_decode_ingCkh : decodeIng 0b10100000010#11 = .ingCkh 0x02#8 := by decide
theorem test_decode_ingCkl : decodeIng 0b11010111111#11 = .ingCkl 0xBF#8 := by decide
theorem test_decode_ingIll : decodeIng 0b11100000000#11 = .ingIll 0x00#8 := by decide
theorem test_decode_too_wide : decodeTableWord 16 0x800 = none := by decide

/-! ## One step on small states -/

/-- A power-on state over a zero buffer with the named header registers. -/
def mk (pos : Pos) (flen acc ckr : Word) : State :=
  ((((State.powerOn (Vector.replicate 26 0x00#8)).setPos pos).setFlen flen).setAcc acc).setCkr ckr

/-- The payload of the frame F28 (`95_test_vectors.md`). -/
def pay28 : Vector Byte 26 :=
  #v[0x00#8, 0x05#8, 0x00#8, 0x08#8, 0x00#8, 0x0A#8, 0x00#8, 0x05#8, 0x00#8, 0x08#8, 0x00#8, 0x0A#8, 0x03#8,
    0xE8#8, 0x01#8, 0x2C#8, 0x00#8, 0x32#8, 0x00#8, 0x04#8, 0x00#8, 0x01#8, 0x00#8, 0x00#8, 0x97#8, 0x00#8]

/-- The record REC28 (`95_test_vectors.md`). -/
def rec28 : Vector Word 12 :=
  #v[0x0005#16, 0x0008#16, 0x000A#16, 0x0005#16, 0x0008#16, 0x000A#16, 0x03E8#16, 0x012C#16, 0x0032#16,
    0x0004#16, 0x0001#16, 0x0000#16]

/-- The start state of V-CKL-1. -/
def atChecksum : State := (mk 31#5 0x001C#16 0x02BF#16 0x0200#16).setPay pay28

/-- The next state, where there is one. -/
def nextOf : Answer → Option State
  | .next t => some t
  | .fault _ => none
  | .refused _ => none

/-- The step from `s` on the one word `w`. -/
def stepOn (s : State) (w : StepWord) : Option State := nextOf (step (s.setInputs [w]))

/-- V-RST-2: rst with clr, valid and byte 0x42. -/
theorem test_rst : (stepOn ((atChecksum.setStatus .ok).setRecord rec28) 0x742#11).map
    (fun t => (t.pos, t.flen, t.acc, t.ckr, t.status, t.done)) =
    some (0#5, 0x0000#16, 0x0000#16, 0x0000#16, .waiting, false) := by decide

/-- V-RST-1: the record becomes the sentinel and PAY stays. -/
theorem test_rst_record : (stepOn ((atChecksum.setStatus .ok).setRecord rec28) 0x400#11).map
    (fun t => (t.record[0], t.record[11], t.pay)) = some (0xFFFF#16, 0xFFFF#16, pay28) := by decide

/-- V-IDLE-1. -/
theorem test_idle : (stepOn ((mk 7#5 0x001C#16 0 0).setDone true) 0x000#11).map (fun t => (t.pos, t.done)) =
    some (7#5, false) := by decide

/-- V-CLR-1. -/
theorem test_clr : (stepOn (((mk 9#5 0x001C#16 0 0).setStatus .ok).setRecord rec28) 0x200#11).map
    (fun t => (t.status, t.record, t.pos)) = some (.waiting, rec28, 9#5) := by decide

/-- V-CLR-2: the byte is not ingested. -/
theorem test_clr_no_byte : (stepOn (mk 0#5 0 0 0) 0x2FF#11).map (fun t => (t.status, t.pos)) =
    some (.waiting, 0#5) := by decide

/-- V-DONE-1. -/
theorem test_byte : (stepOn ((mk 0#5 0 0 0).setDone true) 0x142#11).map (fun t => (t.pos, t.acc, t.done)) =
    some (1#5, 0x0042#16, false) := by decide

/-- V-CKL-3: a second validation overwrites the record. -/
theorem test_byte_validates :
    (stepOn ((atChecksum.setStatus .ok).setRecord (Vector.replicate 12 0x1111#16)) 0x1BF#11).map
    (fun t => (t.record, t.status, t.done)) = some (rec28, .ok, true) := by decide

/-- V-CLRB-2: the clear does not hide the new frame. -/
theorem test_clrbyte_validates : (stepOn (atChecksum.setStatus .ok) 0x3BF#11).map
    (fun t => (t.status, t.done, t.record, t.pos)) = some (.ok, true, rec28, 0#5) := by decide

/-- V-CLRB-3. -/
theorem test_clrbyte_mismatch : (stepOn (atChecksum.setStatus .ok) 0x3C0#11).map
    (fun t => (t.status, t.done, t.pos)) = some (.waiting, false, 0#5) := by decide

/-- R102's example. -/
theorem test_ingM1 : (nextOf (exec (.ingM1 0x42#8) (mk 0#5 0 0x1234#16 0))).map (fun t => (t.pos, t.acc)) =
    some (1#5, 0x0042#16) := by decide

/-- V-M1-2. -/
theorem test_ingM1_skip : (nextOf (exec (.ingM1 0x4D#8) (mk 0#5 0 0x1234#16 0))).map (fun t => (t.pos, t.acc)) =
    some (0#5, 0x1234#16) := by decide

/-- V-M2-1. -/
theorem test_ingM2 : (nextOf (exec (.ingM2 0x4D#8) (mk 1#5 0 0x0042#16 0))).map (fun t => (t.pos, t.acc)) =
    some (2#5, 0x008F#16) := by decide

/-- R103's example: 0x42 is not taken as a new marker 1. -/
theorem test_ingM2_mismatch : (nextOf (exec (.ingM2 0x42#8) (mk 1#5 0 0x0042#16 0))).map
    (fun t => (t.pos, t.acc)) = some (0#5, 0x0042#16) := by decide

/-- V-LH-3. -/
theorem test_ingLenh : (nextOf (exec (.ingLenh 0x42#8) (mk 2#5 0x001C#16 0x008F#16 0))).map
    (fun t => (t.pos, t.flen, t.acc)) = some (3#5, 0x4200#16, 0x00D1#16) := by decide

/-- V-LL-1. -/
theorem test_ingLenl : (nextOf (exec (.ingLenl 0x1C#8) (mk 3#5 0x0000#16 0x008F#16 0))).map
    (fun t => (t.pos, t.flen, t.acc)) = some (4#5, 0x001C#16, 0x00AB#16) := by decide

/-- V-LL-6: the high byte is not 0. -/
theorem test_ingLenl_bad : (nextOf (exec (.ingLenl 0x1C#8) (mk 3#5 0x0100#16 0x0090#16 0))).map
    (fun t => (t.pos, t.flen, t.acc)) = some (0#5, 0x011C#16, 0x00AC#16) := by decide

/-- V-PAY-5. -/
theorem test_ingPay : (nextOf (exec (.ingPay 0x99#8) (mk 21#5 0x0014#16 0x0307#16 0))).map
    (fun t => (t.pay[17], t.pay[18], t.acc, t.pos)) = some (0x99#8, 0x00#8, 0x03A0#16, 22#5) := by decide

/-- V-PAY-4, with a byte that shows: the last payload byte of a 28-length frame. -/
theorem test_ingPay_last : (nextOf (exec (.ingPay 0x01#8) (mk 29#5 0x001C#16 0x02BE#16 0))).map
    (fun t => (t.pay[25], t.pay[24], t.acc, t.pos)) = some (0x01#8, 0x00#8, 0x02BF#16, 30#5) := by decide

/-- V-CKH-1. -/
theorem test_ingCkh : (nextOf (exec (.ingCkh 0x02#8) (mk 30#5 0x001C#16 0x02BF#16 0))).map
    (fun t => (t.ckr, t.pos, t.acc)) = some (0x0200#16, 31#5, 0x02BF#16) := by decide

/-- V-CKL-1. -/
theorem test_ingCkl : (nextOf (exec (.ingCkl 0xBF#8) atChecksum)).map
    (fun t => (t.ckr, t.record, t.status, t.done, t.pos)) = some (0x02BF#16, rec28, .ok, true, 0#5) := by decide

/-- V-CKL-4: checksum bytes sent little-endian do not match. -/
theorem test_ingCkl_mismatch : (nextOf (exec (.ingCkl 0x02#8) (atChecksum.setCkr 0xBF00#16))).map
    (fun t => (t.ckr, t.status, t.record[0], t.pos)) = some (0xBF02#16, .waiting, 0xFFFF#16, 0#5) := by decide

/-- V-ILL-1. -/
theorem test_ingIll : step ((mk 31#5 0x0014#16 0 0).setInputs [0x100#11]) = .fault .unreachable := by rfl

/-- The first word after reset is run. -/
theorem test_fetch_word : step (State.reset.withFetchWord 16 0x142) = exec (.byte 0x42#8) State.reset := by rfl

/-- The words of program P4's first lines (`95_test_vectors.md`). -/
theorem test_assemble : assemble [.rst, .byte 0x42, .bytes [0x42, 0x4D], .clrbyte 0xA0, .rep 2 .idle, .clr] =
    some [0x400#11, 0x142#11, 0x142#11, 0x14D#11, 0x3A0#11, 0x000#11, 0x000#11, 0x200#11] := by decide

/-- The frame F20 with its checksum 0x03A0 (`95_test_vectors.md`). -/
theorem test_frame : (assemble [.frame 20 [0x11, 0x22, 0x33, 0x44, 0x55, 0x66, 0x77, 0x88, 0x99]]).map
    (fun ws => (ws.length, ws.take 6, ws.drop 20)) =
    some (24, [0x142#11, 0x14D#11, 0x100#11, 0x114#11, 0x100#11, 0x111#11],
      [0x100#11, 0x199#11, 0x103#11, 0x1A0#11]) := by decide

/-- Reads by name and by port. -/
theorem test_reads : (pollOnce (atChecksum.setStatus .ok), readField (atChecksum.setRecord rec28) .cnt0_3,
    pollUntil [atChecksum, atChecksum.setStatus .ok], pollUntil [atChecksum]) =
    (true, 0x03E8#16, true, false) := by decide

/-- The discard classes of V-M1-2, V-M2-3, V-LL-5 and V-CKL-2. -/
theorem test_discards : (discardOf (mk 0#5 0 0 0) 0x4D#8, discardOf (mk 1#5 0 0 0) 0x00#8,
    discardOf (mk 3#5 0 0 0) 0x13#8, discardOf atChecksum 0xC0#8, discardOf atChecksum 0xBF#8) =
    (some .skipM1, some .badM2, some .badLen, some .badCk, none) := by decide

/-! ## Witnesses: a state and operands that meet the hypotheses of each obligation -/

theorem witness_PseudoInstructionsExpand :
    65535 < 65536 ∧ 0x02C0 < 65536 ∧ ∀ w ∈ [0, 0x0005, 65535], w < 65536 := by decide

theorem witness_StepRunsTheDecodedWord :
    ((mk 0#5 0 0 0).setInputs [0x142#11]).inputs = 0x142#11 :: [] ∧ (mk 0#5 0 0 0).inputs = [] := by decide

/-- Every clause of the phase table, at the ends of its range (`95_test_vectors.md` 2.1). -/
theorem witness_PhaseFollowsPosition :
    ([(0, 0), (1, 0), (2, 0), (3, 0), (4, 20), (21, 20), (22, 20), (23, 20), (24, 20), (29, 28), (30, 28), (31, 28)].map
      fun x : Nat × Nat => (mk (BitVec.ofNat 5 x.1) (BitVec.ofNat 16 x.2) 0 0).phase) =
    [.awaitMarker1, .awaitMarker2, .readLengthHigh, .readLengthLow, .readPayload, .readPayload, .readChecksumHigh,
      .readChecksumLow, .unreachable, .readPayload, .readChecksumHigh, .readChecksumLow] := by decide

/-- Both clauses of `ByteStepCompletes` and `ClrbyteStepCompletes`: a byte that validates, and one that does not. -/
theorem witness_ByteStepCompletes :
    atChecksum.phase ≠ .unreachable ∧
    (atChecksum.phase = .readChecksumLow ∧ (atChecksum.ckr.extractLsb' 8 8 ++ 0xBF#8 : Word) = atChecksum.acc) ∧
    ¬(atChecksum.phase = .readChecksumLow ∧ (atChecksum.ckr.extractLsb' 8 8 ++ 0xC0#8 : Word) = atChecksum.acc) := by
  decide

theorem witness_ClrbyteStepCompletes :
    (atChecksum.setStatus .ok).phase ≠ .unreachable ∧ validates (atChecksum.setStatus .ok) 0xBF#8 = true ∧
    validates (atChecksum.setStatus .ok) 0xC0#8 = false := by decide

theorem witness_ClearDoesNotDisturbIngest : ∃ t, exec (.byte 0xBF#8) (atChecksum.setStatus .ok) = .next t := ⟨_, rfl⟩

theorem witness_UnreachablePhaseFaults :
    ((mk 31#5 0x0014#16 0 0).setInputs [0x100#11]).phase = .unreachable ∧
    ((mk 31#5 0x0014#16 0 0).setInputs [0x100#11]).inputs = (0x100#11 ||| (0x00#8).setWidth 11) :: [] := by decide

theorem witness_OnlyPhaseSevenStops :
    exec (.byte 0x00#8) (mk 24#5 0x0014#16 0 0) = .fault .unreachable ∧
    exec (.ingIll 0x00#8) (mk 0#5 0 0 0) = .fault .unreachable := ⟨rfl, rfl⟩

theorem witness_OperationsCompleteInEveryState :
    Instr.ingPay 0x00#8 ∈ [Instr.rst, .idle, .clr, .ingM1 0x00#8, .ingM2 0x00#8, .ingLenh 0x00#8, .ingLenl 0x00#8,
      .ingPay 0x00#8, .ingCkh 0x00#8, .ingCkl 0x00#8] := by decide

/-- The positions of the four header statements (`Marker1StartsAFrame` to `LengthLowIsChecked`). -/
theorem witness_header_positions :
    (mk 0#5 0 0 0).pos = 0#5 ∧ (mk 1#5 0 0x0042#16 0).pos = 1#5 ∧ (mk 2#5 0 0x008F#16 0).pos = 2#5 ∧
    (mk 3#5 0 0x008F#16 0).pos = 3#5 := by decide

theorem witness_HeaderWritesOnlyPosFlenAcc :
    (Instr.ingLenl 0x1C#8, (mk 3#5 0 0x008F#16 0).pos) ∈
      [(Instr.ingM1 0x1C#8, 0#5), (.ingM2 0x1C#8, 1#5), (.ingLenh 0x1C#8, 2#5), (.ingLenl 0x1C#8, 3#5)] := by decide

/-- The first and the last payload position, with the index a byte goes to. -/
theorem witness_PayloadByteIsStoredAndSummed :
    (mk 4#5 28 0 0).phase = .readPayload ∧ (mk 29#5 28 0 0).phase = .readPayload ∧
    (mk 29#5 28 0 0).pos.toNat < 31 ∧ (25 : Nat) = (mk 29#5 28 0 0).pos.toNat - 4 := by decide

theorem witness_ChecksumHighIsStored :
    (mk 30#5 28 0 0).phase = .readChecksumHigh ∧ (mk 30#5 28 0 0).pos.toNat < 31 := by decide

theorem witness_ChecksumLowValidatesAndPublishes :
    atChecksum.phase = .readChecksumLow ∧
    (atChecksum.ckr.extractLsb' 8 8 ++ 0xBF#8 : Word) = atChecksum.acc ∧
    (atChecksum.ckr.extractLsb' 8 8 ++ 0xC0#8 : Word) ≠ atChecksum.acc := by decide

/-- Steps that change a register of each clause. -/
theorem witness_RegistersWrittenOnlyAsListed :
    (nextOf (exec (decodeStep 0x1BF#11) atChecksum)).any (fun t => t.pos != atChecksum.pos && t.ckr != atChecksum.ckr
      && t.record != atChecksum.record && t.status != atChecksum.status) = true ∧
    (nextOf (exec (decodeStep 0x11C#11) (mk 3#5 0 0x008F#16 0))).any (fun t => t.flen != 0 && t.acc != 0x008F#16) = true ∧
    (nextOf (exec (decodeStep 0x105#11) (mk 5#5 28 0 0))).any (fun t => t.pay != (mk 5#5 28 0 0).pay) = true := by
  decide

theorem witness_FrameInv :
    (mk 31#5 28 0 0).FrameInv ∧ (mk 23#5 20 0 0).FrameInv ∧ (mk 4#5 20 0 0).FrameInv ∧ (mk 3#5 0xFFFF#16 0 0).FrameInv := by
  decide

theorem witness_PositionAdvancesOrReturns :
    (mk 30#5 28 0 0).FrameInv ∧ Instr.clrbyte 0x00#8 ∈ [Instr.byte 0x00#8, .clrbyte 0x00#8] := by decide

/-- A step that writes PAY[1] and a step that writes nothing there. -/
theorem witness_PayloadBufferIsNeverCleared :
    (∃ t, exec (decodeStep 0x105#11) (mk 5#5 28 0 0) = .next t) ∧
    ((0x105#11).getLsbD 10 = false ∧ (0x105#11).getLsbD 8 = true ∧ (mk 5#5 28 0 0).phase = .readPayload ∧
      (mk 5#5 28 0 0).pos.toNat = (1 : Fin 26).val + 4) ∧
    ¬((0x400#11).getLsbD 10 = false) := ⟨⟨_, rfl⟩, by decide, by decide⟩

theorem witness_StatusChangesOnlyAsListed :
    ((nextOf (exec (decodeStep 0x1BF#11) atChecksum)).map State.status = some .ok ∧ atChecksum.status = .waiting) ∧
    (nextOf (exec (decodeStep 0x200#11) (atChecksum.setStatus .ok))).map State.status = some .waiting := by decide

theorem witness_DoneMarksValidation :
    (nextOf (exec (decodeStep 0x1BF#11) atChecksum)).map State.done = some true ∧
    (nextOf (exec (decodeStep 0x1C0#11) atChecksum)).map State.done = some false := by decide

/-- `test_discards` meets `DiscardsAreSilent` once for each class; here for `OffendingByteIsConsumed`. -/
theorem witness_OffendingByteIsConsumed : discardOf (mk 1#5 0 0x0042#16 0) 0x42#8 = some .badM2 := by decide

theorem witness_DiscardsAreSilent : discardOf atChecksum 0xC0#8 = some .badCk := by decide

/-- The first position past the header and the last before the frame's last byte. -/
theorem witness_NoResyncInsideAFrame :
    ((mk 4#5 20 0 0).FrameInv ∧ 4 ≤ (mk 4#5 20 0 0).pos.toNat ∧
      (mk 4#5 20 0 0).pos.toNat ≤ (mk 4#5 20 0 0).flen.toNat + 2) ∧
    ((mk 30#5 28 0 0).FrameInv ∧ (mk 30#5 28 0 0).pos.toNat ≤ (mk 30#5 28 0 0).flen.toNat + 2) ∧
    (0x142#11).getLsbD 10 = false := by decide

/-- The second clause, and the third with a byte and without one. -/
theorem witness_SimultaneousInputsAreOrdered :
    validates atChecksum 0xBF#8 = true ∧
    (((true = true) → validates atChecksum 0xC0#8 = false) ∧
      ∃ t, exec (decodeStep (portWord false true true 0xC0#8)) atChecksum = .next t) ∧
    ∃ t, exec (decodeStep (portWord false true false 0xC0#8)) atChecksum = .next t :=
  ⟨by decide, ⟨by decide, ⟨_, rfl⟩⟩, ⟨_, rfl⟩⟩

theorem witness_FrameInvariantIsKept :
    (mk 30#5 28 0 0).FrameInv ∧ ∃ t, step ((mk 30#5 28 0 0).setInputs [0x102#11]) = .next t :=
  ⟨by decide, ⟨_, rfl⟩⟩

/-- A state at the last byte of each frame length, with the sum it must hold: F28's, and a 20-length frame of zeros
(0x00A3, `40_ingest_header.md` R101). -/
theorem witness_ChecksumCoversTheFrame :
    (atChecksum.Inv ∧ atChecksum.phase = .readChecksumLow ∧ atChecksum.flen = 28#16) ∧
    ((mk 23#5 20 0x00A3#16 0).Inv ∧ (mk 23#5 20 0x00A3#16 0).phase = .readChecksumLow ∧
      (mk 23#5 20 0x00A3#16 0).flen = 20#16) ∧
    ∃ t, step (atChecksum.setInputs [0x1BF#11]) = .next t :=
  ⟨by decide, by decide, ⟨_, rfl⟩⟩

theorem witness_EveryRunCompletes : (State.powerOn pay28).FrameInv := by decide

/-- F20's last two bytes match its sum, and 0x03A1 does not. -/
theorem witness_FrameFedAtPositionZero :
    let payload : List Byte := [0x00#8, 0x11#8, 0x00#8, 0x22#8, 0x00#8, 0x33#8, 0x00#8, 0x44#8, 0x00#8, 0x55#8, 0x00#8,
      0x66#8, 0x00#8, 0x77#8, 0x00#8, 0x88#8, 0x00#8, 0x99#8]
    payload.length = 20 - 2 ∧ (State.powerOn pay28).pos = 0#5 ∧
    (0x03#8).toNat * 256 + (0xA0#8).toNat = 0x42 + 0x4D + 20 + (payload.map BitVec.toNat).sum ∧
    (0x03#8).toNat * 256 + (0xA1#8).toNat ≠ 0x42 + 0x4D + 20 + (payload.map BitVec.toNat).sum := by decide

/-- The 24 words of a 20-length frame of zeros, whose sum is 0x00A3. -/
def shortFrame : List StepWord := [0x142#11, 0x14D#11, 0x100#11, 0x114#11] ++ List.replicate 18 0x100#11 ++ [0x100#11, 0x1A3#11]

theorem witness_ValidationNeedsTwentyFourBytes :
    shortFrame ≠ [] ∧ (State.powerOn pay28).pos = 0#5 ∧
    (nextOf (Sys2Proof.core.run shortFrame.length ((State.powerOn pay28).setInputs shortFrame))).map State.done =
      some true := by decide

theorem witness_IdleNeverAbandonsAFrame :
    ((mk 12#5 28 0 0).setInputs [0x000#11, 0x000#11, 0x142#11]).inputs = List.replicate 2 0x000#11 ++ [0x142#11] := by
  decide

/-- A run of no step and a run of one IDLE step. -/
theorem witness_SentinelUntilFirstValidation :
    (∀ i : Fin 12, ((State.powerOn pay28).setInputs [0x000#11]).record[i.val] = 0xFFFF#16) ∧
    (nextOf (Sys2Proof.core.run 1 ((State.powerOn pay28).setInputs [0x000#11]))).map State.done = some false := by decide

/-- PAY[24..25] of F28 replaced by 0xFF. -/
theorem witness_ThirteenthWordIsNotPublished :
    let p : Vector Byte 26 := (pay28.set 24 0xFF#8).set 25 0xFF#8
    p ≠ atChecksum.pay ∧ (∀ i : Fin 26, i.val < 24 → memRead p i = memRead atChecksum.pay i) ∧
    (nextOf (Sys2Proof.core.run 1 (atChecksum.setInputs [0x1BF#11]))).map State.done = some true := by decide

theorem witness_HeaderRegistersUnobservableAtReset :
    (mk 0#5 0 0 0).pos = 0#5 ∧
    (nextOf (Sys2Proof.core.run 1 ((mk 0#5 0 0 0).setInputs [0x142#11]))).map State.pos = some 1#5 := by decide

end Sys2Proof.Tests
end

section
/-! What can stop an operation: the one fault, and no refusal (`42_step_control.md` R146, `60_exceptions.md` R160). -/

namespace Sys2Proof.Machine

/-! An ING operation other than ING_ILL that branches completes on both branches, whatever the phase (log entry 7). -/

theorem execIngM1_completes (b : Byte) (s : State) : ∃ t, execIngM1 b s = .next t := by
  unfold execIngM1
  split <;> exact ⟨_, rfl⟩

theorem execIngM2_completes (b : Byte) (s : State) : ∃ t, execIngM2 b s = .next t := by
  unfold execIngM2
  split <;> exact ⟨_, rfl⟩

theorem execIngLenl_completes (b : Byte) (s : State) : ∃ t, execIngLenl b s = .next t := by
  simp only [execIngLenl]
  split <;> exact ⟨_, rfl⟩

theorem execIngCkl_completes (b : Byte) (s : State) : ∃ t, execIngCkl b s = .next t := by
  simp only [execIngCkl]
  split <;> exact ⟨_, rfl⟩

theorem ingest_of_phase_unreachable {s : State} (b : Byte) (h : s.phase = .unreachable) :
    ingest b s = .fault .unreachable := by
  simp only [ingest, h, execIngIll, raiseUnreachable]

theorem ingest_completes_or_faults (b : Byte) (s : State) :
    (∃ t, ingest b s = .next t) ∨ (ingest b s = .fault .unreachable ∧ s.phase = .unreachable) := by
  by_cases h : s.phase = .unreachable
  · exact .inr ⟨ingest_of_phase_unreachable b h, h⟩
  · exact .inl (ingest_completes h)

/-- The operation stops in this state: it is ING_ILL, or it ingests a byte in PHASE 7 (`42_step_control.md` R146). -/
def StopsIn (i : Instr) (s : State) : Prop :=
  (∃ b, i = .ingIll b) ∨ ((∃ b, i = .byte b ∨ i = .clrbyte b) ∧ s.phase = .unreachable)

/-- Every operation completes, or is one that stops and answers the one fault. PHASE is that of the state before the step:
BYTE and CLRBYTE write DONE and STATUS before they ingest, and PHASE reads neither. -/
theorem exec_completes_or_stops (i : Instr) (s : State) :
    (∃ t, exec i s = .next t) ∨ (exec i s = .fault .unreachable ∧ StopsIn i s) := by
  cases i with
  | rst | idle | clr | ingLenh | ingPay | ingCkh => exact .inl ⟨_, rfl⟩
  | ingM1 b => exact .inl (execIngM1_completes b s)
  | ingM2 b => exact .inl (execIngM2_completes b s)
  | ingLenl b => exact .inl (execIngLenl_completes b s)
  | ingCkl b => exact .inl (execIngCkl_completes b s)
  | byte b =>
    exact (ingest_completes_or_faults b (clearDone s)).imp_right
      fun ⟨hf, hp⟩ => ⟨hf, .inr ⟨⟨b, .inl rfl⟩, hp⟩⟩
  | clrbyte b =>
    exact (ingest_completes_or_faults b (clearStatus (clearDone s))).imp_right
      fun ⟨hf, hp⟩ => ⟨hf, .inr ⟨⟨b, .inr rfl⟩, hp⟩⟩
  | ingIll b => exact .inr ⟨rfl, .inl ⟨b, rfl⟩⟩

/-- Settles O17: an operation that does not complete is one that stops, and its answer is the fault `unreachable`, never a
refusal. -/
theorem onlyPhaseSevenStops : Obligations.OnlyPhaseSevenStops := by
  refine ⟨fun i s f h => ?_, fun i s q h => ?_⟩
  · obtain ⟨t, ht⟩ | ⟨-, hstops⟩ := exec_completes_or_stops i s
    · cases ht.symm.trans h
    · exact hstops
  · obtain ⟨t, ht⟩ | ⟨hf, -⟩ := exec_completes_or_stops i s
    · cases ht.symm.trans h
    · cases hf.symm.trans h

end Sys2Proof.Machine
end

section
/-! An ingest, by the phase that selects it (`42_step_control.md` R145): one equation per phase that is no fault. -/

namespace Sys2Proof.Machine

variable {s : State} {b : Byte}

theorem ingest_of_awaitMarker1 (hp : s.phase = .awaitMarker1) :
    ingest b s = .next (if b = 0x42#8 then (s.setAcc 0x42#16).setPos 1#5 else s.setPos 0#5) := by
  simp only [ingest, hp, execIngM1, isM1_iff]
  split <;> rfl

theorem ingest_of_awaitMarker2 (hp : s.phase = .awaitMarker2) :
    ingest b s =
      .next (if b = 0x4D#8 then (s.setAcc (s.acc + zext16 b)).setPos 2#5 else s.setPos 0#5) := by
  simp only [ingest, hp, execIngM2, isM2_iff]
  split <;> rfl

theorem ingest_of_readLengthHigh (hp : s.phase = .readLengthHigh) :
    ingest b s = .next (((s.setFlen (loadHigh b)).setAcc (s.acc + zext16 b)).setPos 3#5) := by
  simp only [ingest, hp]
  rfl

theorem ingest_of_readLengthLow (hp : s.phase = .readLengthLow) :
    ingest b s = .next (((s.setFlen (loadLow s.flen b)).setAcc (s.acc + zext16 b)).setPos
      (if lenOK (loadLow s.flen b) then 4#5 else 0#5)) := by
  simp only [ingest, hp, execIngLenl]
  split <;> rfl

theorem ingest_of_readPayload (hp : s.phase = .readPayload) :
    ingest b s = .next (((s.setAcc (s.acc + zext16 b)).setPay
      (memWrite s.pay (payIndex s.pos) b)).setPos (s.pos + 1#5)) := by
  simp only [ingest, hp]
  rfl

theorem ingest_of_readChecksumHigh (hp : s.phase = .readChecksumHigh) :
    ingest b s = .next ((s.setCkr (loadHigh b)).setPos (s.pos + 1#5)) := by
  simp only [ingest, hp]
  rfl

theorem ingest_of_readChecksumLow (hp : s.phase = .readChecksumLow) :
    ingest b s = .next (if loadLow s.ckr b = s.acc
      then (publish (s.setCkr (loadLow s.ckr b))).setPos 0#5
      else (s.setCkr (loadLow s.ckr b)).setPos 0#5) := by
  simp only [ingest, hp, execIngCkl, ckOK_iff]
  split <;> rfl

end Sys2Proof.Machine
end

section
/-! What an ingest writes, register by register (`10_state.md` R20, column "written by"). -/

namespace Sys2Proof.Machine

variable {s t : State} {b : Byte}

theorem validates_iff :
    validates s b = true ↔ s.phase = .readChecksumLow ∧ loadLow s.ckr b = s.acc := by
  simp [validates]

/-- A byte that validates publishes the record and returns to position 0 (`41_ingest_payload_checksum.md` R122). -/
theorem ingest_of_validates (hv : validates s b = true) :
    ingest b s = .next ((publish (s.setCkr (loadLow s.ckr b))).setPos 0#5) := by
  obtain ⟨hp, hc⟩ := validates_iff.mp hv
  rw [ingest_of_readChecksumLow hp, if_pos hc]

/-- Advancing POS wraps to 0 or stays on the 5-bit register (log entry 3). -/
theorem pos_succ_eq_zero_or_lt (p : Pos) : p + 1#5 = 0#5 ∨ p.toNat + 1 < 32 := by
  revert p; decide

/-- How the state after an ingest of `b` stands to the state before it: what POS and PAY become, and which phases write the
other registers. -/
structure IngestFrame (b : Byte) (s t : State) : Prop where
  /-- R21: POS advances by one or returns to 0. -/
  pos : t.pos = 0#5 ∨ t.pos.toNat = s.pos.toNat + 1
  flen : t.flen = s.flen ∨ s.phase = .readLengthHigh ∨ s.phase = .readLengthLow
  acc : t.acc = s.acc ∨ s.phase ∈ [Phase.awaitMarker1, .awaitMarker2, .readLengthHigh, .readLengthLow, .readPayload]
  ckr : t.ckr = s.ckr ∨ s.phase = .readChecksumHigh ∨ s.phase = .readChecksumLow
  /-- R25: PHASE 4 alone writes PAY, and only the byte at the index of the position. -/
  pay : t.pay = if s.phase = .readPayload then memWrite s.pay (s.pos.toNat - 4) b else s.pay
  /-- R26 to R28: a byte that does not validate leaves all that the host reads. -/
  outputs : validates s b = true ∨ (t.record = s.record ∧ t.status = s.status ∧ t.done = s.done)
  inputs : t.inputs = s.inputs
  draws : t.draws = s.draws

/-- Every ingest that completes is of that frame, by the equation of its phase. -/
theorem ingestFrame_of_next (h : ingest b s = .next t) : IngestFrame b s t := by
  cases hp : s.phase with
  | awaitMarker1 =>
    have hpos := (phase_awaitMarker1_iff s).mp hp
    cases (ingest_of_awaitMarker1 hp).symm.trans h
    split <;> constructor <;> simp [hp, hpos]
  | awaitMarker2 =>
    have hpos := (phase_awaitMarker2_iff s).mp hp
    cases (ingest_of_awaitMarker2 hp).symm.trans h
    split <;> constructor <;> simp [hp, hpos]
  | readLengthHigh =>
    have hpos := (phase_readLengthHigh_iff s).mp hp
    cases (ingest_of_readLengthHigh hp).symm.trans h
    constructor <;> simp [hp, hpos]
  | readLengthLow =>
    have hpos := (phase_readLengthLow_iff s).mp hp
    cases (ingest_of_readLengthLow hp).symm.trans h
    split <;> constructor <;> simp [hp, hpos]
  | readPayload =>
    have hpos := payIndex_of_le ((phase_readPayload_iff s).mp hp).1
    cases (ingest_of_readPayload hp).symm.trans h
    constructor <;> simp [hp, hpos, pos_succ_eq_zero_or_lt]
  | readChecksumHigh =>
    cases (ingest_of_readChecksumHigh hp).symm.trans h
    constructor <;> simp [hp, pos_succ_eq_zero_or_lt]
  | readChecksumLow =>
    cases (ingest_of_readChecksumLow hp).symm.trans h
    split <;> constructor <;> simp [validates_iff, *]
  | unreachable => cases (ingest_of_phase_unreachable b hp).symm.trans h

/-- What the host sees of an ingest: a validation, or its flags and record as they were (`60_exceptions.md` R163). -/
theorem ingest_outputs (h : ingest b s = .next t) :
    (validates s b = true ∧ t.status = .ok ∧ t.done = true ∧ t.pos = 0#5) ∨
    (validates s b = false ∧ t.record = s.record ∧ t.status = s.status ∧ t.done = s.done) := by
  by_cases hv : validates s b = true
  · cases (ingest_of_validates hv).symm.trans h
    exact .inl ⟨hv, rfl, rfl, rfl⟩
  · exact .inr ⟨eq_false_of_ne_true hv, (ingestFrame_of_next h).outputs.resolve_left hv⟩

/-- A byte of PAY after an ingest: the ingested one at the index of its position (`10_state.md` R25), else the old one. -/
theorem memRead_pay_of_ingest (h : ingest b s = .next t) (i : Fin 26) :
    memRead t.pay i =
      if s.phase = .readPayload ∧ s.pos.toNat = i.val + 4 then b else memRead s.pay i := by
  rw [(ingestFrame_of_next h).pay]
  by_cases hp : s.phase = .readPayload
  · have h₄ := ((phase_readPayload_iff s).mp hp).1
    rw [if_pos hp]
    split_ifs with hi
    · have hidx : s.pos.toNat - 4 = i.val := by omega
      rw [hidx, memRead_memWrite_same]
    · exact memRead_memWrite_other _ _ fun hidx => hi ⟨hp, by omega⟩
  · rw [if_neg hp, if_neg fun hi => hp hi.1]

end Sys2Proof.Machine
end

section
/-! A step of any word, by its control bits (`42_step_control.md` R140). -/

namespace Sys2Proof.Machine

/-- The state as the byte of a step finds it: DONE cleared, and STATUS too if the word asks for it (R140). -/
def clearFlags (w : StepWord) (s : State) : State :=
  (s.setDone false).setStatus (if w.getLsbD 9 then .waiting else s.status)

variable {w : StepWord} {s t : State}

@[simp] theorem clearFlags_pos : (clearFlags w s).pos = s.pos := rfl
@[simp] theorem clearFlags_flen : (clearFlags w s).flen = s.flen := rfl
@[simp] theorem clearFlags_acc : (clearFlags w s).acc = s.acc := rfl
@[simp] theorem clearFlags_ckr : (clearFlags w s).ckr = s.ckr := rfl
@[simp] theorem clearFlags_pay : (clearFlags w s).pay = s.pay := rfl
@[simp] theorem clearFlags_record : (clearFlags w s).record = s.record := rfl
@[simp] theorem clearFlags_status : (clearFlags w s).status = if w.getLsbD 9 then .waiting else s.status := rfl
@[simp] theorem clearFlags_done : (clearFlags w s).done = false := rfl
@[simp] theorem clearFlags_inputs : (clearFlags w s).inputs = s.inputs := rfl
@[simp] theorem clearFlags_draws : (clearFlags w s).draws = s.draws := rfl
@[simp] theorem clearFlags_phase : (clearFlags w s).phase = s.phase := rfl

/-- The clear input is all that can change STATUS before the ingest. -/
theorem clearFlags_status_of_ne (h : (clearFlags w s).status ≠ s.status) :
    w.getLsbD 9 = true ∧ (clearFlags w s).status = .waiting := by
  by_cases hc : w.getLsbD 9 = true
  · exact ⟨hc, by rw [clearFlags_status, if_pos hc]⟩
  · exact absurd (by rw [clearFlags_status, if_neg hc]) h

theorem exec_decodeStep_eq (w : StepWord) (s : State) :
    exec (decodeStep w) s =
      if w.getLsbD 10 then .next (applyReset s)
      else if w.getLsbD 8 then ingest (w.extractLsb' 0 8) (clearFlags w s)
      else .next (clearFlags w s) := by
  obtain ⟨hr, h⟩ | ⟨hr, hc, hv, h⟩ | ⟨hr, hc, hv, h⟩ | ⟨hr, hc, hv, h⟩ | ⟨hr, hc, hv, h⟩ :=
    exec_decodeStep_cases w s <;> rw [h] <;>
  simp_all [stepR, stepC, stepV, wordByte, clearFlags, State.setStatus, State.setDone]

/-- What a step that completes can have done: a reset, the ingest of a byte, or neither. -/
theorem exec_decodeStep_next_cases (h : exec (decodeStep w) s = .next t) :
    (w.getLsbD 10 = true ∧ t = applyReset s) ∨
    (w.getLsbD 10 = false ∧ w.getLsbD 8 = false ∧ t = clearFlags w s) ∨
    (w.getLsbD 10 = false ∧ w.getLsbD 8 = true ∧
      ingest (w.extractLsb' 0 8) (clearFlags w s) = .next t) := by
  rw [exec_decodeStep_eq] at h
  split_ifs at h with hr hv
  · cases h; exact .inl ⟨hr, rfl⟩
  · exact .inr (.inr ⟨eq_false_of_ne_true hr, hv, h⟩)
  · cases h; exact .inr (.inl ⟨eq_false_of_ne_true hr, eq_false_of_ne_true hv, rfl⟩)

theorem exec_decodeStep_completes (w : StepWord) (h : s.phase ≠ .unreachable) :
    ∃ t, exec (decodeStep w) s = .next t := by
  rw [exec_decodeStep_eq]
  split_ifs
  · exact ⟨_, rfl⟩
  · exact ingest_completes h
  · exact ⟨_, rfl⟩

end Sys2Proof.Machine
end

section
/-! The registers in one step of any word: which steps write them (`10_state.md` R20 to R29). -/

namespace Sys2Proof.Machine

variable {w : StepWord} {s t : State} {b : Byte}

/-- Settles O7: each clause is the phase's own range of positions; the bytes remaining are a difference that does not
truncate. -/
theorem phaseFollowsPosition : Obligations.PhaseFollowsPosition := by
  intro s
  refine ⟨fun h => ?_, fun h => ?_, fun h => ?_, fun h => ?_, fun h₄ h => ?_, fun h₄ h => ?_, fun h₄ h => ?_,
    fun h₄ h => ?_⟩
  · simp [(phase_awaitMarker1_iff s).mpr h, Phase.code]
  · simp [(phase_awaitMarker2_iff s).mpr h, Phase.code]
  · simp [(phase_readLengthHigh_iff s).mpr h, Phase.code]
  · simp [(phase_readLengthLow_iff s).mpr h, Phase.code]
  · have hp := (phase_readPayload_iff s).mpr ⟨h₄, h⟩
    refine ⟨hp, by rw [hp]; rfl, ?_⟩
    unfold State.bytesRemaining
    omega
  · simp [(phase_readChecksumHigh_iff s).mpr ⟨h₄, h⟩, Phase.code]
  · simp [(phase_readChecksumLow_iff s).mpr ⟨h₄, h⟩, Phase.code]
  · simp [(phase_unreachable_iff s).mpr ⟨h₄, h⟩, Phase.code]

/-- Settles O9: RST is the power-on state over the old buffer and the environment's words. -/
theorem powerOnState : Obligations.PowerOnState :=
  ⟨fun _ => ⟨rfl, rfl, rfl, rfl, rfl, by simp [Config.sentinel], rfl, rfl⟩, ⟨_, rfl⟩,
    fun s => congrArg Host.Outcome.next (applyReset_eq s)⟩

/-- Settles O27: a reset leaves PAY alone, a step without a byte writes the flags alone, and an ingest writes what its frame
allows. -/
theorem registersWrittenOnlyAsListed : Obligations.RegistersWrittenOnlyAsListed := by
  intro w s t h reset ingests
  obtain ⟨hr, rfl⟩ | ⟨hr, hv, rfl⟩ | ⟨hr, hv, hi⟩ := exec_decodeStep_next_cases h
  · exact ⟨fun _ => .inl hr, fun _ => .inl hr, fun _ => .inl hr, fun _ => .inl hr, fun hne => absurd rfl hne,
      fun _ => .inl hr, fun _ => .inl hr, rfl, rfl⟩
  · exact ⟨absurd rfl, absurd rfl, absurd rfl, absurd rfl, absurd rfl, absurd rfl,
      fun hne => .inr (.inl (clearFlags_status_of_ne hne).1), rfl, rfl⟩
  · have hingests : ingests := ⟨hr, hv⟩
    have hf := ingestFrame_of_next hi
    refine ⟨fun _ => .inr hingests, fun hne => .inr ⟨hingests, hf.flen.resolve_left hne⟩,
      fun hne => .inr ⟨hingests, hf.acc.resolve_left hne⟩, fun hne => .inr ⟨hingests, hf.ckr.resolve_left hne⟩,
      fun hne => ⟨hingests, by_contra fun hp => hne (hf.pay.trans (if_neg hp))⟩, ?_⟩
    obtain ⟨hval, -, hdone, -⟩ | ⟨-, hrec, hst, -⟩ := ingest_outputs hi
    · have hp := (validates_iff.mp hval).1
      exact ⟨fun _ => .inr ⟨hingests, hp, hdone⟩, fun _ => .inr (.inr ⟨hingests, hp, hdone⟩),
        hf.inputs, hf.draws⟩
    · exact ⟨fun hne => absurd hrec hne, fun hne => .inr (.inl (clearFlags_status_of_ne (hst ▸ hne)).1),
        hf.inputs, hf.draws⟩

/-- Settles O29: the buffer after a step is the buffer before it, but for the write of an ingest in PHASE 4. -/
theorem payloadBufferIsNeverCleared : Obligations.PayloadBufferIsNeverCleared := by
  intro w s t h i writes
  obtain ⟨hr, rfl⟩ | ⟨hr, hv, rfl⟩ | ⟨hr, hv, hi⟩ := exec_decodeStep_next_cases h
  · exact ⟨fun hw => absurd (hr.symm.trans hw.1) Bool.noConfusion, fun _ => rfl⟩
  · exact ⟨fun hw => absurd (hv.symm.trans hw.2.1) Bool.noConfusion, fun _ => rfl⟩
  · have hread := memRead_pay_of_ingest hi i
    exact ⟨fun hw => hread.trans (if_pos hw.2.2), fun hw => hread.trans (if_neg fun hpi => hw ⟨hr, hv, hpi⟩)⟩

/-- Settles O30: STATUS rises in the validating branch of an ingest alone; elsewhere it is what the clear input left. -/
theorem statusChangesOnlyAsListed : Obligations.StatusChangesOnlyAsListed := by
  intro w s t h
  have hclear (hst : t.status = (clearFlags w s).status) :
      ¬(s.status = .waiting ∧ t.status = .ok) ∧
      (s.status = .ok → t.status = .waiting → w.getLsbD 9 = true) := by
    rw [hst]
    refine ⟨fun ⟨hs, ht⟩ => ?_, fun hs ht => (clearFlags_status_of_ne (by rw [hs, ht]; nofun)).1⟩
    exact nomatch ht.symm.trans (clearFlags_status_of_ne (by rw [hs, ht]; nofun)).2
  obtain ⟨hr, rfl⟩ | ⟨-, -, rfl⟩ | ⟨hr, hv, hi⟩ := exec_decodeStep_next_cases h
  · exact ⟨fun _ => nofun, fun _ _ => .inl hr⟩
  · exact ⟨fun hs ht => absurd ⟨hs, ht⟩ (hclear rfl).1, fun hs ht => .inr ((hclear rfl).2 hs ht)⟩
  · obtain ⟨hval, hok, -, -⟩ | ⟨-, -, hst, -⟩ := ingest_outputs hi
    · exact ⟨fun _ _ => ⟨hr, hv, hval⟩, fun _ ht => nomatch hok.symm.trans ht⟩
    · exact ⟨fun hs ht => absurd ⟨hs, ht⟩ (hclear hst).1, fun hs ht => .inr ((hclear hst).2 hs ht)⟩

/-- Settles O31: DONE is cleared before the ingest and set by a validation alone. -/
theorem doneMarksValidation : Obligations.DoneMarksValidation := by
  intro w s t h
  obtain ⟨hr, rfl⟩ | ⟨hr, hv, rfl⟩ | ⟨hr, hv, hi⟩ := exec_decodeStep_next_cases h
  · exact ⟨⟨nofun, fun hw => nomatch hr.symm.trans hw.1⟩, nofun⟩
  · exact ⟨⟨nofun, fun hw => nomatch hv.symm.trans hw.2.1⟩, nofun⟩
  · obtain ⟨hval, hok, hdone, hpos⟩ | ⟨hval, -, -, hdone⟩ := ingest_outputs hi
    · exact ⟨⟨fun _ => ⟨hr, hv, validates_iff.mp hval⟩, fun _ => hdone⟩, fun _ => ⟨hok, hpos⟩⟩
    · have hoff : ¬t.done = true := by simp [hdone]
      refine ⟨⟨fun hd => absurd hd hoff, fun hw => ?_⟩, fun hd => absurd hd hoff⟩
      exact nomatch hval.symm.trans (validates_iff.mpr hw.2.2)

end Sys2Proof.Machine
end

section
/-! The invariant of `10_state.md` R30: every step keeps it, and in a state that has it every step completes. -/

namespace Sys2Proof.Machine

variable {w : StepWord} {s t : State} {b : Byte}

theorem frameInv_of_pos_lt (h : s.pos.toNat < 4) : s.FrameInv := fun h₄ => absurd h₄ (by omega)

/-- A state at position 0 is before the length check and before the first byte of a frame: neither invariant says anything. -/
theorem inv_of_pos_zero (h : s.pos = 0#5) : s.Inv := by
  have hpos : s.pos.toNat = 0 := by rw [h]; rfl
  exact ⟨frameInv_of_pos_lt (by omega), by omega, by omega, by omega, by omega⟩

/-- R30 (d), from (c). -/
theorem phase_ne_unreachable_of_frameInv (hs : s.FrameInv) : s.phase ≠ .unreachable := by
  rw [Ne, phase_unreachable_iff]
  rintro ⟨h₄, hpast⟩
  have := (hs h₄).2
  omega

theorem toNat_pos_succ_le (p : Pos) : (p + 1#5).toNat ≤ p.toNat + 1 := by
  revert p; decide

/-- The proof sketch of R30: POS leaves 3 for 4 only with FLEN 20 or 28, FLEN is kept from there on, and POS moves on by one
until FLEN + 3. -/
theorem ingest_keeps_frameInv (hs : s.FrameInv) (h : ingest b s = .next t) : t.FrameInv := by
  obtain ⟨-, rfl⟩ | ⟨-, rfl⟩ | ⟨-, rfl⟩ | ⟨-, rfl⟩ | ⟨h₄, hpos, rfl⟩ | ⟨h₄, hpos, rfl⟩ | ⟨-, -, rfl⟩ :=
    ingest_next_cases h
  · exact frameInv_of_pos_lt (by split <;> simp)
  · exact frameInv_of_pos_lt (by split <;> simp)
  · exact frameInv_of_pos_lt (by simp)
  · split_ifs with hl
    · have hlen := (lenOK_iff _).mp hl
      exact fun _ => ⟨hlen, by obtain hl | hl := hlen <;> simp [hl]⟩
    · exact frameInv_of_pos_lt (by simp)
  · have hle : (s.pos + 1#5).toNat ≤ s.flen.toNat + 3 := (toNat_pos_succ_le s.pos).trans (by omega)
    exact fun _ => ⟨(hs h₄).1, hle⟩
  · have hle : (s.pos + 1#5).toNat ≤ s.flen.toNat + 3 := (toNat_pos_succ_le s.pos).trans (by omega)
    exact fun _ => ⟨(hs h₄).1, hle⟩
  · exact frameInv_of_pos_lt (by split <;> simp)

theorem exec_decodeStep_keeps_frameInv (hs : s.FrameInv) (h : exec (decodeStep w) s = .next t) :
    t.FrameInv := by
  obtain ⟨-, rfl⟩ | ⟨-, -, rfl⟩ | ⟨-, -, hi⟩ := exec_decodeStep_next_cases h
  · exact frameInv_of_pos_lt (by simp [applyReset_eq])
  · exact hs
  · exact ingest_keeps_frameInv (s := clearFlags w s) hs hi

theorem fetch_keeps_frameInv (hs : s.FrameInv) : (fetch s).2.FrameInv := by
  obtain ⟨hpos, hflen, -⟩ := fetch_registers s
  unfold State.FrameInv
  rwa [hpos, hflen]

/-- From the invariant a step completes and keeps it. -/
theorem step_completes_with_frameInv (hs : s.FrameInv) : ∃ t, step s = .next t ∧ t.FrameInv := by
  have hf := fetch_keeps_frameInv hs
  obtain ⟨t, ht⟩ := exec_decodeStep_completes (fetch s).1 (phase_ne_unreachable_of_frameInv hf)
  exact ⟨t, ht, exec_decodeStep_keeps_frameInv hf ht⟩

/-- Settles O37, by the frame invariant of the fetched state and the step's cases. -/
theorem frameInvariantIsKept : Obligations.FrameInvariantIsKept :=
  ⟨fun _ => frameInv_of_pos_lt (by simp),
    fun _ _ hs h => exec_decodeStep_keeps_frameInv (fetch_keeps_frameInv hs) h,
    fun _ => phase_ne_unreachable_of_frameInv⟩

/-- Settles O40: the induction over a run, with the frame invariant. -/
theorem everyRunCompletes : Obligations.EveryRunCompletes := fun k _ hs =>
  run_completes (fun _ => step_completes_with_frameInv) k hs

/-- Settles O38: all these states are at position 0. -/
theorem resetMeetsTheInvariants : Obligations.ResetMeetsTheInvariants :=
  ⟨inv_of_pos_zero rfl, fun _ _ => inv_of_pos_zero rfl⟩

theorem ingest_moves_pos (b : Byte) (hs : s.phase ≠ .unreachable) :
    ∃ t, ingest b s = .next t ∧ (t.pos.toNat = s.pos.toNat + 1 ∨ t.pos = 0#5) :=
  (ingest_completes hs).imp fun _ h => ⟨h, (ingestFrame_of_next h).pos.symm⟩

/-- Settles O28: both steps ingest the byte, in a phase that the invariant allows. -/
theorem positionAdvancesOrReturns : Obligations.PositionAdvancesOrReturns := by
  intro b s hs i hi
  have hp := phase_ne_unreachable_of_frameInv hs
  simp only [List.mem_cons, List.not_mem_nil, or_false] at hi
  obtain rfl | rfl := hi
  · exact ingest_moves_pos (s := clearDone s) b hp
  · exact ingest_moves_pos (s := clearStatus (clearDone s)) b hp

end Sys2Proof.Machine
end

section
/-! FLEN, ACC and CKR are read only where the frame in progress has written them, so their values before that reach no output
(`10_state.md` R33, `93_implementation_defined.md` U5). -/

namespace Sys2Proof.Machine

variable {s t u : State} {f a c : Word} {b : Byte}

/-- The state with its three header registers replaced. -/
def State.withHeader (s : State) (f a c : Word) : State := ((s.setFlen f).setAcc a).setCkr c

theorem State.withHeader_flen : (s.withHeader f a c).flen = f := rfl

/-- The replacements equal the registers wherever the state still needs them: FLEN from POS 3 on, ACC from POS 1 on, CKR in
PHASE 6. -/
structure State.HeaderAgrees (s : State) (f a c : Word) : Prop where
  flen : 3 ≤ s.pos.toNat → f = s.flen
  acc : 1 ≤ s.pos.toNat → a = s.acc
  ckr : s.phase = .readChecksumLow → c = s.ckr

/-- Two states that differ in no header register that is still needed. -/
def HeaderTwins (s u : State) : Prop := ∃ f a c, u = s.withHeader f a c ∧ s.HeaderAgrees f a c

theorem headerAgrees_of_pos_zero (h : s.pos = 0#5) : s.HeaderAgrees f a c := by
  have hpos : s.pos.toNat = 0 := by rw [h]; rfl
  refine ⟨by omega, by omega, fun hp => ?_⟩
  have := ((phase_readChecksumLow_iff s).mp hp).1
  omega

theorem headerTwins_refl (s : State) : HeaderTwins s s :=
  ⟨s.flen, s.acc, s.ckr, rfl, fun _ => rfl, fun _ => rfl, fun _ => rfl⟩

/-- PHASE reads FLEN from POS 4 on alone. -/
theorem State.HeaderAgrees.phase_withHeader (h : s.HeaderAgrees f a c) :
    (s.withHeader f a c).phase = s.phase := by
  by_cases h₃ : 3 ≤ s.pos.toNat
  · rw [h.flen h₃]; rfl
  · obtain hpos | hpos | hpos : s.pos.toNat = 0 ∨ s.pos.toNat = 1 ∨ s.pos.toNat = 2 := by omega
    · exact ((phase_awaitMarker1_iff (s.withHeader f a c)).mpr hpos).trans ((phase_awaitMarker1_iff s).mpr hpos).symm
    · exact ((phase_awaitMarker2_iff (s.withHeader f a c)).mpr hpos).trans ((phase_awaitMarker2_iff s).mpr hpos).symm
    · exact ((phase_readLengthHigh_iff (s.withHeader f a c)).mpr hpos).trans ((phase_readLengthHigh_iff s).mpr hpos).symm

/-- An ingest from twins completes for both and ends in twins. -/
theorem ingest_headerTwins (hT : HeaderTwins s u) (h : ingest b s = .next t) :
    ∃ v, ingest b u = .next v ∧ HeaderTwins t v := by
  obtain ⟨f, a, c, rfl, hA⟩ := hT
  have hp' := hA.phase_withHeader
  cases hp : s.phase with
  | awaitMarker1 =>
    cases (ingest_of_awaitMarker1 hp).symm.trans h
    refine ⟨_, ingest_of_awaitMarker1 (hp'.trans hp), ?_⟩
    split_ifs
    · exact ⟨f, 0x42#16, c, rfl, by simp, by simp, by simp [phase_readChecksumLow_iff]⟩
    · exact ⟨f, a, c, rfl, headerAgrees_of_pos_zero rfl⟩
  | awaitMarker2 =>
    have hpos := (phase_awaitMarker2_iff s).mp hp
    cases (ingest_of_awaitMarker2 hp).symm.trans h
    refine ⟨_, ingest_of_awaitMarker2 (hp'.trans hp), ?_⟩
    split_ifs
    · exact ⟨f, a + zext16 b, c, rfl, by simp, by simp [hA.acc (by omega)], by simp [phase_readChecksumLow_iff]⟩
    · exact ⟨f, a, c, rfl, headerAgrees_of_pos_zero rfl⟩
  | readLengthHigh =>
    have hpos := (phase_readLengthHigh_iff s).mp hp
    cases (ingest_of_readLengthHigh hp).symm.trans h
    refine ⟨_, ingest_of_readLengthHigh (hp'.trans hp), ?_⟩
    exact ⟨loadHigh b, a + zext16 b, c, rfl, by simp, by simp [hA.acc (by omega)], by simp [phase_readChecksumLow_iff]⟩
  | readLengthLow =>
    have hpos := (phase_readLengthLow_iff s).mp hp
    obtain rfl := hA.flen (by omega)
    obtain rfl := hA.acc (by omega)
    cases (ingest_of_readLengthLow hp).symm.trans h
    refine ⟨_, ingest_of_readLengthLow (hp'.trans hp), ?_⟩
    rw [State.withHeader_flen]
    split_ifs with hl
    · refine ⟨loadLow s.flen b, s.acc + zext16 b, c, rfl, fun _ => rfl, fun _ => rfl, ?_⟩
      obtain hlen | hlen := (lenOK_iff _).mp hl <;> simp [phase_readChecksumLow_iff, hlen]
    · exact ⟨loadLow s.flen b, s.acc + zext16 b, c, rfl, headerAgrees_of_pos_zero rfl⟩
  | readPayload =>
    obtain ⟨h₄, hpos⟩ := (phase_readPayload_iff s).mp hp
    obtain rfl := hA.flen (by omega)
    obtain rfl := hA.acc (by omega)
    cases (ingest_of_readPayload hp).symm.trans h
    refine ⟨_, ingest_of_readPayload (hp'.trans hp), ?_⟩
    have hnext : (s.pos + 1#5).toNat < s.flen.toNat + 3 := (toNat_pos_succ_le s.pos).trans_lt (by omega)
    refine ⟨s.flen, s.acc + zext16 b, c, rfl, fun _ => rfl, fun _ => rfl, fun hlow => ?_⟩
    exact absurd ((phase_readChecksumLow_iff _).mp hlow).2 hnext.ne
  | readChecksumHigh =>
    obtain ⟨h₄, -⟩ := (phase_readChecksumHigh_iff s).mp hp
    obtain rfl := hA.flen (by omega)
    obtain rfl := hA.acc (by omega)
    cases (ingest_of_readChecksumHigh hp).symm.trans h
    exact ⟨_, ingest_of_readChecksumHigh (hp'.trans hp), headerTwins_refl _⟩
  | readChecksumLow =>
    obtain ⟨h₄, -⟩ := (phase_readChecksumLow_iff s).mp hp
    obtain rfl := hA.flen (by omega)
    obtain rfl := hA.acc (by omega)
    obtain rfl := hA.ckr hp
    exact ⟨t, h, headerTwins_refl t⟩
  | unreachable => cases (ingest_of_phase_unreachable b hp).symm.trans h

theorem exec_decodeStep_headerTwins {w : StepWord} (hT : HeaderTwins s u)
    (h : exec (decodeStep w) s = .next t) : ∃ v, exec (decodeStep w) u = .next v ∧ HeaderTwins t v := by
  have hflags : HeaderTwins (clearFlags w s) (clearFlags w u) := by
    obtain ⟨f, a, c, rfl, hA⟩ := hT
    exact ⟨f, a, c, rfl, hA.flen, hA.acc, hA.ckr⟩
  rw [exec_decodeStep_eq]
  obtain ⟨hr, rfl⟩ | ⟨hr, hv, rfl⟩ | ⟨hr, hv, hi⟩ := exec_decodeStep_next_cases h
  · obtain ⟨f, a, c, rfl, -⟩ := hT
    exact ⟨_, if_pos hr, headerTwins_refl (applyReset s)⟩
  · exact ⟨_, by simp only [hr, hv]; rfl, hflags⟩
  · simp only [hr, hv]
    exact ingest_headerTwins hflags hi

theorem fetch_headerTwins (hT : HeaderTwins s u) :
    (fetch u).1 = (fetch s).1 ∧ HeaderTwins (fetch s).2 (fetch u).2 := by
  obtain ⟨f, a, c, rfl, hA⟩ := hT
  have hinputs : (s.withHeader f a c).inputs = s.inputs := rfl
  unfold fetch
  rw [hinputs]
  split <;> exact ⟨rfl, f, a, c, rfl, hA.flen, hA.acc, hA.ckr⟩

theorem step_headerTwins (s u t : State) (hT : HeaderTwins s u) (h : step s = .next t) :
    ∃ v, step u = .next v ∧ HeaderTwins t v := by
  obtain ⟨hword, hfetched⟩ := fetch_headerTwins hT
  unfold step
  rw [hword]
  exact exec_decodeStep_headerTwins hfetched h

/-- Settles O46: at position 0 any header registers make a twin, a run from twins ends in twins, and twins have the same
outputs. -/
theorem headerRegistersUnobservableAtReset : Obligations.HeaderRegistersUnobservableAtReset := by
  intro k s t f a c hpos h
  have hT : HeaderTwins s (s.withHeader f a c) := ⟨f, a, c, rfl, headerAgrees_of_pos_zero hpos⟩
  obtain ⟨_, hrun, _, _, _, rfl, -⟩ := run_related step_headerTwins k hT h
  exact ⟨_, hrun, rfl, rfl, rfl, rfl, rfl⟩

end Sys2Proof.Machine
end

section
/-! A word of either format is three control bits and a byte (`30_encoding.md` R70, R72). -/

namespace Sys2Proof

theorem exists_append_byte (w : StepWord) : ∃ (p : BitVec 3) (b : Byte), w = p ++ b :=
  ⟨w.extractLsb' 8 3, w.extractLsb' 0 8, (BitVec.extractLsb'_append_extractLsb' (w := 3) (len := 8)).symm⟩

/-- Three bits, one by one. -/
theorem ofBool_append_getLsbD (p : BitVec 3) :
    BitVec.ofBool (p.getLsbD 2) ++ BitVec.ofBool (p.getLsbD 1) ++ BitVec.ofBool (p.getLsbD 0) = p := by
  revert p; decide

/-- An ING word is the port word of the bits of its phase: the formats share the layout (log entry 6). -/
theorem append_eq_portWord (p : BitVec 3) (b : Byte) :
    p ++ b = portWord (p.getLsbD 2) (p.getLsbD 1) (p.getLsbD 0) b :=
  congrArg (· ++ b) (ofBool_append_getLsbD p).symm

/-- R70: a word is the concatenation of its own four fields. -/
theorem portWord_fields (w : StepWord) : portWord (stepR w) (stepC w) (stepV w) (wordByte w) = w := by
  obtain ⟨p, b, rfl⟩ := exists_append_byte w
  simp [append_eq_portWord]

/-- The mask of the three control bits clears the byte alone. -/
theorem append_and_controlMask (p : BitVec 3) (b : Byte) : (p ++ b) &&& 0x700#11 = p ++ 0#8 := by
  have hmask : 0x700#11 = BitVec.allOnes 3 ++ 0#8 := rfl
  rw [hmask, BitVec.and_append, BitVec.and_allOnes, BitVec.and_zero]

theorem and_controlMask (w : StepWord) :
    w &&& 0x700#11 = portWord (stepR w) (stepC w) (stepV w) 0#8 := by
  conv_lhs => rw [← portWord_fields w]
  exact append_and_controlMask _ _

/-- Control bits and a byte may be joined by `|||` (R71). -/
theorem append_or_setWidth (p : BitVec 3) (b : Byte) : (p ++ 0#8) ||| b.setWidth 11 = p ++ b := by
  have hb : b.setWidth 11 = 0#3 ++ b := BitVec.setWidth_eq_append (by omega)
  rw [hb, BitVec.or_append, BitVec.or_zero, BitVec.zero_or]

end Sys2Proof
end

section
/-! The STEP format (`30_encoding.md` R71): the control bits select the row, and the encoder inverts the decoder. -/

namespace Sys2Proof

variable {w : StepWord}

/-! One `↔` per row of the decoder. -/

theorem decodeStep_eq_rst_iff : decodeStep w = .rst ↔ stepR w = true := by
  unfold decodeStep; split <;> simp_all

theorem decodeStep_eq_idle_iff :
    decodeStep w = .idle ↔ stepR w = false ∧ stepC w = false ∧ stepV w = false := by
  unfold decodeStep; split <;> simp_all

theorem decodeStep_eq_byte_iff :
    decodeStep w = .byte (wordByte w) ↔ stepR w = false ∧ stepC w = false ∧ stepV w = true := by
  unfold decodeStep; split <;> simp_all

theorem decodeStep_eq_clr_iff :
    decodeStep w = .clr ↔ stepR w = false ∧ stepC w = true ∧ stepV w = false := by
  unfold decodeStep; split <;> simp_all

theorem decodeStep_eq_clrbyte_iff :
    decodeStep w = .clrbyte (wordByte w) ↔ stepR w = false ∧ stepC w = true ∧ stepV w = true := by
  unfold decodeStep; split <;> simp_all

/-! The rows' masks select by the same bits. -/

/-- A word lies in a row of mask 0x700 exactly when it has the row's control bits. -/
theorem and_controlMask_eq_iff {r c v : Bool} :
    w &&& 0x700#11 = portWord r c v 0#8 ↔ stepR w = r ∧ stepC w = c ∧ stepV w = v := by
  rw [and_controlMask]
  refine ⟨fun h => ⟨?_, ?_, ?_⟩, fun ⟨hr, hc, hv⟩ => by rw [hr, hc, hv]⟩
  · simpa using congrArg stepR h
  · simpa using congrArg stepC h
  · simpa using congrArg stepV h

/-- A word lies in the row of RST exactly when its reset bit is 1. -/
theorem and_resetMask_eq_iff : w &&& 0x400#11 = 0x400#11 ↔ stepR w = true := by
  have hmask : w &&& 0x400#11 = portWord (stepR w) (stepC w) (stepV w) 0#8 &&& 0x400#11 := by
    rw [← and_controlMask, BitVec.and_assoc]
    rfl
  rw [hmask]
  generalize stepR w = r, stepC w = c, stepV w = v
  revert r c v
  decide

/-! The canonical words as port words. -/

theorem encode_byte (b : Byte) : encode (.byte b) = portWord false false true b :=
  append_or_setWidth 1#3 b

theorem encode_clrbyte (b : Byte) : encode (.clrbyte b) = portWord false true true b :=
  append_or_setWidth 3#3 b

theorem decodeStep_encode {i : Instr} (h : i.isStep = true) : decodeStep (encode i) = i := by
  cases i with
  | rst | idle | clr => rfl
  | byte b => exact decodeStep_byteWord b
  | clrbyte b => simp [encode_clrbyte, decodeStep]
  | ingM1 | ingM2 | ingLenh | ingLenl | ingPay | ingCkh | ingCkl | ingIll => cases h

theorem isStep_decodeStep (w : StepWord) : (decodeStep w).isStep = true := by
  unfold decodeStep; split <;> rfl

/-- Encoding a decoded step word keeps the bits that its row reads and clears the others. -/
theorem encode_decodeStep (w : StepWord) :
    encode (decodeStep w) = if stepR w then 0x400#11 else if stepV w then w else w &&& 0x700#11 := by
  have hw := portWord_fields w
  have hm := and_controlMask w
  cases hr : stepR w with
  | true => rw [decodeStep_eq_rst_iff.mpr hr]; rfl
  | false =>
    cases hc : stepC w <;> cases hv : stepV w <;> rw [hr, hc, hv] at hw hm
    · rw [decodeStep_eq_idle_iff.mpr ⟨hr, hc, hv⟩]; exact hm.symm
    · rw [decodeStep_eq_byte_iff.mpr ⟨hr, hc, hv⟩, encode_byte]; exact hw
    · rw [decodeStep_eq_clr_iff.mpr ⟨hr, hc, hv⟩]; exact hm.symm
    · rw [decodeStep_eq_clrbyte_iff.mpr ⟨hr, hc, hv⟩, encode_clrbyte]; exact hw

end Sys2Proof
end

section
/-! The ING format (`30_encoding.md` R72): a word is a phase and a byte, and the phase selects the operation. -/

namespace Sys2Proof.Machine

/-- The operation that R72's table gives for a phase. -/
def Phase.operation : Phase → Byte → Instr
  | .awaitMarker1 => .ingM1
  | .awaitMarker2 => .ingM2
  | .readLengthHigh => .ingLenh
  | .readLengthLow => .ingLenl
  | .readPayload => .ingPay
  | .readChecksumHigh => .ingCkh
  | .readChecksumLow => .ingCkl
  | .unreachable => .ingIll

/-- Each of the eight values of three bits is the code of a phase. -/
theorem exists_phase_code (p : BitVec 3) : ∃ q : Phase, q.code = p := by
  have h : ∀ p : BitVec 3, ∃ q ∈ [Phase.awaitMarker1, .awaitMarker2, .readLengthHigh, .readLengthLow, .readPayload,
      .readChecksumHigh, .readChecksumLow, .unreachable], q.code = p := by decide
  exact (h p).imp fun _ hq => hq.2

theorem exists_code_append (w : StepWord) : ∃ (p : Phase) (b : Byte), w = p.code ++ b := by
  obtain ⟨c, b, rfl⟩ := exists_append_byte w
  obtain ⟨p, rfl⟩ := exists_phase_code c
  exact ⟨p, b, rfl⟩

theorem decodeIng_code_append (p : Phase) (b : Byte) : decodeIng (p.code ++ b) = p.operation b := by
  have hword := append_eq_portWord p.code b
  have h₁₀ : (p.code ++ b).getLsbD 10 = p.code.getLsbD 2 := (congrArg stepR hword).trans (stepR_portWord ..)
  have h₉ : (p.code ++ b).getLsbD 9 = p.code.getLsbD 1 := (congrArg stepC hword).trans (stepC_portWord ..)
  have h₈ : (p.code ++ b).getLsbD 8 = p.code.getLsbD 0 := (congrArg stepV hword).trans (stepV_portWord ..)
  rw [decodeIng, h₁₀, h₉, h₈, wordByte_append]
  cases p <;> rfl

theorem encode_operation (p : Phase) (b : Byte) : encode (p.operation b) = p.code ++ b := by
  cases p <;> rfl

theorem isStep_operation (p : Phase) (b : Byte) : (p.operation b).isStep = false := by
  cases p <;> rfl

/-- Every operation of the ING format is the operation of some phase. -/
theorem exists_operation {i : Instr} (h : i.isStep = false) : ∃ (p : Phase) (b : Byte), i = p.operation b := by
  cases i with
  | rst | idle | byte | clr | clrbyte => cases h
  | ingM1 b => exact ⟨.awaitMarker1, b, rfl⟩
  | ingM2 b => exact ⟨.awaitMarker2, b, rfl⟩
  | ingLenh b => exact ⟨.readLengthHigh, b, rfl⟩
  | ingLenl b => exact ⟨.readLengthLow, b, rfl⟩
  | ingPay b => exact ⟨.readPayload, b, rfl⟩
  | ingCkh b => exact ⟨.readChecksumHigh, b, rfl⟩
  | ingCkl b => exact ⟨.readChecksumLow, b, rfl⟩
  | ingIll b => exact ⟨.unreachable, b, rfl⟩

theorem decodeIng_encode {i : Instr} (h : i.isStep = false) : decodeIng (encode i) = i := by
  obtain ⟨p, b, rfl⟩ := exists_operation h
  rw [encode_operation, decodeIng_code_append]

theorem isStep_decodeIng (w : StepWord) : (decodeIng w).isStep = false := by
  obtain ⟨p, b, rfl⟩ := exists_code_append w
  rw [decodeIng_code_append, isStep_operation]

/-- An ING word has no ignored bits. -/
theorem encode_decodeIng (w : StepWord) : encode (decodeIng w) = w := by
  obtain ⟨p, b, rfl⟩ := exists_code_append w
  rw [decodeIng_code_append, encode_operation]

/-- An ingest runs the operation of the state's phase (`42_step_control.md` R145). -/
theorem exec_operation_phase (b : Byte) (s : State) : exec (s.phase.operation b) s = ingest b s := by
  unfold ingest
  cases s.phase <;> rfl

end Sys2Proof.Machine
end

section
/-! The two formats and the dispatch through them (`30_encoding.md` R70 to R72). -/

namespace Sys2Proof.Machine

theorem format_of_isStep {i : Instr} (h : i.isStep = true) : i.format = .step := if_pos h

theorem format_of_not_isStep {i : Instr} (h : i.isStep = false) : i.format = .ing := by
  rw [Instr.format, h]; rfl

/-- Settles O3: each format's decoder and encoder undo each other, on the operations of that format. -/
theorem decodeAndEncodeAgree : Obligations.DecodeAndEncodeAgree := by
  refine ⟨fun i => ?_, fun w => ⟨format_of_not_isStep (isStep_decodeIng w), encode_decodeIng w⟩,
    fun w => ⟨format_of_isStep (isStep_decodeStep w), encode_decodeStep w⟩⟩
  cases h : i.isStep with
  | true => rw [format_of_isStep h]; exact decodeStep_encode h
  | false => rw [format_of_not_isStep h]; exact decodeIng_encode h

/-- Settles O1, by evaluation of the sixteen written words. -/
theorem writtenWordsDecode : Obligations.WrittenWordsDecode := by
  unfold Obligations.WrittenWordsDecode
  decide

/-- Settles O2: a row's mask and match fix the control bits that its operation decodes from, and the five rows' control bits
are all there are. -/
theorem stepWordsFollowOpcodeMap : Obligations.StepWordsFollowOpcodeMap := by
  refine ⟨rfl, rfl, rfl, fun b => ⟨rfl, rfl⟩, fun w => ?_⟩
  have hrst := and_resetMask_eq_iff (w := w)
  have hidle := and_controlMask_eq_iff (w := w) (r := false) (c := false) (v := false)
  have hbyte := and_controlMask_eq_iff (w := w) (r := false) (c := false) (v := true)
  have hclr := and_controlMask_eq_iff (w := w) (r := false) (c := true) (v := false)
  have hclrbyte := and_controlMask_eq_iff (w := w) (r := false) (c := true) (v := true)
  refine ⟨hrst.trans decodeStep_eq_rst_iff.symm, hidle.trans decodeStep_eq_idle_iff.symm,
    hbyte.trans decodeStep_eq_byte_iff.symm, hclr.trans decodeStep_eq_clr_iff.symm,
    hclrbyte.trans decodeStep_eq_clrbyte_iff.symm, ?_⟩
  cases hr : stepR w with
  | true => exact .inl (hrst.mpr hr)
  | false =>
    cases hc : stepC w <;> cases hv : stepV w
    · exact .inr (.inl (hidle.mpr ⟨hr, hc, hv⟩))
    · exact .inr (.inr (.inl (hbyte.mpr ⟨hr, hc, hv⟩)))
    · exact .inr (.inr (.inr (.inl (hclr.mpr ⟨hr, hc, hv⟩))))
    · exact .inr (.inr (.inr (.inr (hclrbyte.mpr ⟨hr, hc, hv⟩))))

/-- Settles O8: the ING word of the state's phase decodes to the operation of that phase, which is what an ingest runs. -/
theorem ingestRunsTheSelectedOperation : Obligations.IngestRunsTheSelectedOperation := by
  refine ⟨fun b => ⟨decodeIng_code_append .awaitMarker1 b, decodeIng_code_append .awaitMarker2 b,
    decodeIng_code_append .readLengthHigh b, decodeIng_code_append .readLengthLow b,
    decodeIng_code_append .readPayload b, decodeIng_code_append .readChecksumHigh b,
    decodeIng_code_append .readChecksumLow b, decodeIng_code_append .unreachable b⟩, fun b s => ?_⟩
  rw [decodeIng_code_append]
  exact ⟨(exec_operation_phase b (clearDone s)).symm, (exec_operation_phase b (clearStatus (clearDone s))).symm⟩

end Sys2Proof.Machine
end

section
/-! Every operation leaves the environment's words alone. -/

namespace Sys2Proof.Machine

variable {i : Instr} {s t : State}

/-- What an operation that completes does to the fields that stand for the environment: nothing (log entry 2). -/
theorem exec_keeps_environment (h : exec i s = .next t) : t.inputs = s.inputs ∧ t.draws = s.draws := by
  cases i with
  | rst | idle | clr | ingLenh | ingPay | ingCkh => cases h; exact ⟨rfl, rfl⟩
  | byte b => exact ⟨(ingestFrame_of_next h).inputs, (ingestFrame_of_next h).draws⟩
  | clrbyte b => exact ⟨(ingestFrame_of_next h).inputs, (ingestFrame_of_next h).draws⟩
  | ingM1 | ingM2 | ingLenl | ingCkl =>
    simp only [exec, execIngM1, execIngM2, execIngLenl, execIngCkl] at h
    split at h <;> cases h <;> exact ⟨rfl, rfl⟩
  | ingIll b => cases h

/-- Settles O18: none of these operations is one that stops. -/
theorem operationsCompleteInEveryState : Obligations.OperationsCompleteInEveryState := by
  intro b s i hi
  have hstops : ¬StopsIn i s := by
    simp only [List.mem_cons, List.not_mem_nil, or_false] at hi
    obtain rfl | rfl | rfl | rfl | rfl | rfl | rfl | rfl | rfl | rfl := hi <;> simp [StopsIn]
  obtain ⟨t, ht⟩ | ⟨-, hs⟩ := exec_completes_or_stops i s
  · exact ⟨t, ht, exec_keeps_environment ht⟩
  · exact absurd hs hstops

end Sys2Proof.Machine
end

section
/-! The pseudo-instructions on the numbers as written (`30_encoding.md` R79). -/

namespace Sys2Proof.Machine

/-- The two bytes of a 16-bit number, high byte first. -/
def numberBytes (n : Nat) : List Nat := [n / 256, n % 256]

/-- The bytes of a frame before its checksum, as numbers. -/
def frameNumbers (len : Nat) (ws : List Nat) : List Nat := 0x42 :: 0x4D :: (numberBytes len ++ ws.flatMap numberBytes)

theorem wordBytes_ofNat {n : Nat} (h : n < 65536) :
    wordBytes (BitVec.ofNat 16 n) = (numberBytes n).map (BitVec.ofNat 8) := by
  have hhigh : highByte (BitVec.ofNat 16 n) = BitVec.ofNat 8 (n / 256) := by
    apply BitVec.eq_of_toNat_eq
    rw [toNat_highByte, BitVec.toNat_ofNat, BitVec.toNat_ofNat]
    omega
  have hlow : lowByte (BitVec.ofNat 16 n) = BitVec.ofNat 8 (n % 256) := by
    apply BitVec.eq_of_toNat_eq
    rw [toNat_lowByte, BitVec.toNat_ofNat, BitVec.toNat_ofNat]
    omega
  simp only [wordBytes, numberBytes, hhigh, hlow, List.map_cons, List.map_nil]

theorem flatMap_wordBytes_ofNat {ws : List Nat} (h : ∀ w ∈ ws, w < 65536) :
    (ws.map (BitVec.ofNat 16)).flatMap wordBytes = (ws.flatMap numberBytes).map (BitVec.ofNat 8) := by
  rw [List.flatMap_map, List.map_flatMap]
  exact List.flatMap_congr fun w hw => wordBytes_ofNat (h w hw)

theorem frameBody_ofNat {len : Nat} {ws : List Nat} (hlen : len < 65536) (hws : ∀ w ∈ ws, w < 65536) :
    frameBody (BitVec.ofNat 16 len) (ws.map (BitVec.ofNat 16)) = (frameNumbers len ws).map (BitVec.ofNat 8) := by
  simp only [frameBody, frameNumbers, wordBytes_ofNat hlen, flatMap_wordBytes_ofNat hws, List.map_cons, List.map_append]
  rfl

/-- The sum of bytes modulo 2^16 is the sum of the numbers, as a word. -/
theorem byteSum_ofNat : ∀ {ns : List Nat}, (∀ n ∈ ns, n < 256) →
    byteSum (ns.map (BitVec.ofNat 8)) = BitVec.ofNat 16 ns.sum
  | [], _ => rfl
  | n :: ns, h => by
    have hn : n < 256 := h n (by simp)
    have hzext : zext16 (BitVec.ofNat 8 n) = BitVec.ofNat 16 n := by
      apply BitVec.eq_of_toNat_eq
      rw [toNat_zext16, BitVec.toNat_ofNat, BitVec.toNat_ofNat]
      omega
    rw [List.map_cons, List.sum_cons, byteSum, hzext, byteSum_ofNat fun m hm => h m (by simp [hm]), BitVec.ofNat_add]

theorem numberBytes_lt {n : Nat} (h : n < 65536) : ∀ m ∈ numberBytes n, m < 256 := by
  simp only [numberBytes, List.mem_cons, List.not_mem_nil, or_false, forall_eq_or_imp, forall_eq]
  omega

theorem frameNumbers_lt {len : Nat} {ws : List Nat} (hlen : len < 65536) (hws : ∀ w ∈ ws, w < 65536) :
    ∀ m ∈ frameNumbers len ws, m < 256 := by
  simp only [frameNumbers, List.mem_cons, List.mem_append, List.mem_flatMap]
  rintro m (rfl | rfl | hm | ⟨w, hw, hm⟩)
  · decide
  · decide
  · exact numberBytes_lt hlen m hm
  · exact numberBytes_lt (hws w hw) m hm

/-- A frame's steps with the checksum `ck`. -/
theorem byteSteps_frameBytes_ofNat {len ck : Nat} {ws : List Nat} (hlen : len < 65536) (hck : ck < 65536)
    (hws : ∀ w ∈ ws, w < 65536) :
    byteSteps (frameBytes (BitVec.ofNat 16 len) (BitVec.ofNat 16 ck) (ws.map (BitVec.ofNat 16))) =
      (frameNumbers len ws ++ numberBytes ck).map fun b => .byte (BitVec.ofNat 8 b) := by
  rw [byteSteps, frameBytes, frameBody_ofNat hlen hws, wordBytes_ofNat hck, ← List.map_append, List.map_map]
  rfl

/-- FRAME is FRAMECK with the sum of the bytes before the checksum, modulo 2^16. -/
theorem expand_frame {len : Nat} {ws : List Nat} (hlen : len < 65536) (hws : ∀ w ∈ ws, w < 65536) :
    expand (.frame len ws) = expand (.frameck len ((frameNumbers len ws).sum % 65536) ws) := by
  have hsum : BitVec.ofNat 16 ((frameNumbers len ws).sum % 65536) = BitVec.ofNat 16 (frameNumbers len ws).sum := by
    apply BitVec.eq_of_toNat_eq
    rw [BitVec.toNat_ofNat, BitVec.toNat_ofNat, Nat.mod_mod]
  simp only [expand, frameBody_ofNat hlen hws, byteSum_ofNat (frameNumbers_lt hlen hws), hsum]

theorem isFrameShape_iff (len : Nat) (ws : List Nat) :
    isFrameShape len ws = true ↔ (len = 20 ∨ len = 28) ∧ ws.length = (len - 2) / 2 := by
  simp [isFrameShape]

/-- Settles O4: the bytes of 16-bit operands are those of the numbers written, and a sum of bytes as words is their sum
modulo 2^16. -/
theorem pseudoInstructionsExpand : Obligations.PseudoInstructionsExpand := by
  refine ⟨fun bs => List.map_map, fun len ck ws hlen hck hws => ⟨?_, byteSteps_frameBytes_ofNat hlen hck hws⟩,
    fun n l => ?_, fun l => rfl, isFrameShape_iff⟩
  · have hsum : (frameNumbers len ws).sum % 65536 < 65536 := Nat.mod_lt _ (by decide)
    exact (expand_frame hlen hws).trans (byteSteps_frameBytes_ofNat hlen hsum hws)
  · rw [expand, List.replicate_succ, List.flatten_cons, expand]

end Sys2Proof.Machine
end

section
/-! The header operations, each at the position that selects it (`40_ingest_header.md` R102 to R107). -/

namespace Sys2Proof.Machine

variable {s : State} {b : Byte} {p : Phase}

/-- In the phase that selects it, an ING operation is the whole ingest (`42_step_control.md` R145). -/
theorem exec_operation_of_phase (hp : s.phase = p) : exec (p.operation b) s = ingest b s := by
  rw [← hp, exec_operation_phase]

/-- R142: a BYTE step clears DONE and ingests. -/
theorem exec_byte_eq (b : Byte) (s : State) : exec (.byte b) s = ingest b (s.setDone false) := rfl

/-- Settles O19: both run the ingest of PHASE 0; the position that a skip writes is the one the state has. -/
theorem marker1StartsAFrame : Obligations.Marker1StartsAFrame := by
  intro b s hpos
  have hp : s.phase = .awaitMarker1 := (phase_awaitMarker1_iff s).mpr (by rw [hpos]; rfl)
  constructor
  · exact (exec_operation_of_phase hp).trans (ingest_of_awaitMarker1 hp)
  · have hskip : { s with done := false } = (s.setDone false).setPos 0#5 := by rw [← hpos]; rfl
    rw [hskip]
    exact ingest_of_awaitMarker1 (s := s.setDone false) hp

/-- Settles O20: both run the ingest of PHASE 1. -/
theorem marker2IsCheckedNotRetested : Obligations.Marker2IsCheckedNotRetested := by
  intro b s hpos
  have hp : s.phase = .awaitMarker2 := (phase_awaitMarker2_iff s).mpr (by rw [hpos]; rfl)
  exact ⟨(exec_operation_of_phase hp).trans (ingest_of_awaitMarker2 hp),
    ingest_of_awaitMarker2 (s := s.setDone false) hp⟩

/-- Settles O21: both run the ingest of PHASE 2. -/
theorem lengthHighIsStored : Obligations.LengthHighIsStored := by
  intro b s hpos
  have hp : s.phase = .readLengthHigh := (phase_readLengthHigh_iff s).mpr (by rw [hpos]; rfl)
  exact ⟨(exec_operation_of_phase hp).trans (ingest_of_readLengthHigh hp),
    ingest_of_readLengthHigh (s := s.setDone false) hp⟩

/-- Settles O22: both run the ingest of PHASE 3, whose length check is the test for 20 and 28. -/
theorem lengthLowIsChecked : Obligations.LengthLowIsChecked := by
  intro b s hpos len
  have hp : s.phase = .readLengthLow := (phase_readLengthLow_iff s).mpr (by rw [hpos]; rfl)
  have hcheck : (if len = 20#16 ∨ len = 28#16 then 4#5 else 0#5) = if lenOK len then 4#5 else 0#5 :=
    if_congr (lenOK_iff len).symm rfl rfl
  rw [hcheck]
  exact ⟨(exec_operation_of_phase hp).trans (ingest_of_readLengthLow hp),
    ingest_of_readLengthLow (s := s.setDone false) hp⟩

/-- Each header operation, at its position, is the operation of the state's phase. -/
theorem eq_operation_of_header {i : Instr}
    (h : (i, s.pos) ∈ [(Instr.ingM1 b, 0#5), (.ingM2 b, 1#5), (.ingLenh b, 2#5), (.ingLenl b, 3#5)]) :
    i = s.phase.operation b ∧ s.pos.toNat < 4 := by
  simp only [List.mem_cons, List.not_mem_nil, or_false, Prod.mk.injEq] at h
  obtain ⟨rfl, hpos⟩ | ⟨rfl, hpos⟩ | ⟨rfl, hpos⟩ | ⟨rfl, hpos⟩ := h
  · rw [(phase_awaitMarker1_iff s).mpr (by rw [hpos]; rfl), hpos]; exact ⟨rfl, by decide⟩
  · rw [(phase_awaitMarker2_iff s).mpr (by rw [hpos]; rfl), hpos]; exact ⟨rfl, by decide⟩
  · rw [(phase_readLengthHigh_iff s).mpr (by rw [hpos]; rfl), hpos]; exact ⟨rfl, by decide⟩
  · rw [(phase_readLengthLow_iff s).mpr (by rw [hpos]; rfl), hpos]; exact ⟨rfl, by decide⟩

/-- Settles O23: a header operation is an ingest before position 4, in none of the phases that write the other registers. -/
theorem headerWritesOnlyPosFlenAcc : Obligations.HeaderWritesOnlyPosFlenAcc := by
  intro b s i hi
  obtain ⟨rfl, hpos⟩ := eq_operation_of_header hi
  have hpay : s.phase ≠ .readPayload := fun hp => by have := (phase_readPayload_iff s).mp hp; omega
  have hckh : s.phase ≠ .readChecksumHigh := fun hp => by have := (phase_readChecksumHigh_iff s).mp hp; omega
  have hckl : s.phase ≠ .readChecksumLow := fun hp => by have := (phase_readChecksumLow_iff s).mp hp; omega
  obtain ⟨t, ht⟩ := ingest_completes (b := b) (phase_ne_unreachable_of_frameInv (frameInv_of_pos_lt hpos))
  have hframe := ingestFrame_of_next ht
  obtain ⟨hrec, hstatus, hdone⟩ := hframe.outputs.resolve_left fun hv => hckl (validates_iff.mp hv).1
  refine ⟨t, (exec_operation_phase b s).trans ht, fun j => ?_, ?_, fun k => by rw [hrec], hstatus, hdone,
    hframe.inputs, hframe.draws⟩
  · rw [hframe.pay, if_neg hpay]
  · exact hframe.ckr.resolve_right (not_or.mpr ⟨hckh, hckl⟩)

/-- The four causes of a discard, with the class of each (`60_exceptions.md` R161). -/
theorem discardOf_cases {c : DiscardClass} (h : discardOf s b = some c) :
    (c = .skipM1 ∧ s.phase = .awaitMarker1 ∧ b ≠ 0x42#8) ∨
    (c = .badM2 ∧ s.phase = .awaitMarker2 ∧ b ≠ 0x4D#8) ∨
    (c = .badLen ∧ s.phase = .readLengthLow ∧ ¬lenOK (loadLow s.flen b) = true) ∨
    (c = .badCk ∧ s.phase = .readChecksumLow ∧ loadLow s.ckr b ≠ s.acc) := by
  unfold discardOf at h
  split at h
  case h_1 hp =>
    obtain ⟨hb, hc⟩ := Option.ite_none_left_eq_some.mp h
    exact .inl ⟨(Option.some.inj hc).symm, hp, mt (isM1_iff b).mpr hb⟩
  case h_2 hp =>
    obtain ⟨hb, hc⟩ := Option.ite_none_left_eq_some.mp h
    exact .inr (.inl ⟨(Option.some.inj hc).symm, hp, mt (isM2_iff b).mpr hb⟩)
  case h_4 hp =>
    obtain ⟨hl, hc⟩ := Option.ite_none_left_eq_some.mp h
    exact .inr (.inr (.inl ⟨(Option.some.inj hc).symm, hp, hl⟩))
  case h_7 hp =>
    obtain ⟨hk, hc⟩ := Option.ite_none_left_eq_some.mp h
    exact .inr (.inr (.inr ⟨(Option.some.inj hc).symm, hp, mt (ckOK_iff _ _).mpr hk⟩))
  all_goals cases h

/-- A byte that raises a discard completes at position 0, whatever the class (`60_exceptions.md` R161). -/
theorem ingest_of_discard {c : DiscardClass} (h : discardOf s b = some c) :
    ∃ t, ingest b s = .next t ∧ t.pos = 0#5 := by
  obtain ⟨-, hp, hb⟩ | ⟨-, hp, hb⟩ | ⟨-, hp, hl⟩ | ⟨-, hp, hk⟩ := discardOf_cases h
  · exact ⟨_, ingest_of_awaitMarker1 hp, by rw [if_neg hb]; rfl⟩
  · exact ⟨_, ingest_of_awaitMarker2 hp, by rw [if_neg hb]; rfl⟩
  · exact ⟨_, ingest_of_readLengthLow hp, if_neg hl⟩
  · exact ⟨_, ingest_of_readChecksumLow hp, by rw [if_neg hk]; rfl⟩

/-- Settles O33: after the discard the state is at position 0, where ING_M1 tests the next byte alone. -/
theorem offendingByteIsConsumed : Obligations.OffendingByteIsConsumed := by
  intro b b' s c hc
  obtain ⟨t, ht, hpos⟩ := ingest_of_discard (s := s.setDone false) hc
  refine ⟨t, _, ht, (marker1StartsAFrame b' t hpos).2, hpos, ?_⟩
  split
  · rfl
  · exact hpos

end Sys2Proof.Machine
end

section
/-! The checksum invariant of `40_ingest_header.md` R101: ACC is the exact sum of the frame's bytes so far. -/

namespace Sys2Proof.Machine

variable {w : StepWord} {s t : State} {b : Byte}

theorem flen_le_of_frameInv (hs : s.FrameInv) (h₄ : 4 ≤ s.pos.toNat) : s.flen.toNat ≤ 28 := by
  obtain h | h := (hs h₄).1 <;> simp [h]

/-- Up to the first checksum position, one payload byte has arrived for each position from 4 on. -/
theorem payloadSeen_of_le (h : s.pos.toNat ≤ s.flen.toNat + 2) : s.payloadSeen = s.pos.toNat - 4 := by
  unfold State.payloadSeen
  omega

/-- From the first checksum position on, all `FLEN - 2` payload bytes have arrived. -/
theorem payloadSeen_of_ge (h : s.flen.toNat + 2 ≤ s.pos.toNat) : s.payloadSeen = s.flen.toNat - 2 := by
  unfold State.payloadSeen
  omega

/-- No sum of a frame's bytes comes near 2^16, so one more byte never wraps (R101). -/
theorem toNat_acc_add_byte (hs : s.Inv) (hpos : s.pos.toNat ≠ 0) : (s.acc + zext16 b).toNat = s.acc.toNat + b.toNat := by
  obtain ⟨hframe, h₁, h₂, h₃, h₄⟩ := hs
  have hhigh := (highByte s.flen).isLt
  have hlow := (lowByte s.flen).isLt
  have hb := b.isLt
  apply toNat_add_zext16
  by_cases h : 4 ≤ s.pos.toNat
  · have hseen : s.payloadSeen ≤ 26 := by
      have := flen_le_of_frameInv hframe h
      unfold State.payloadSeen
      omega
    have hsum := paySum_le s.pay hseen
    have hacc := h₄ h
    omega
  · omega

/-- Past the length check the invariant is its last clause. -/
theorem checksumInv_iff_of_four_le (h₄ : 4 ≤ s.pos.toNat) :
    s.ChecksumInv ↔ s.acc.toNat = 0x42 + 0x4D + (highByte s.flen).toNat + (lowByte s.flen).toNat +
      paySum s.pay s.payloadSeen :=
  ⟨fun ⟨_, _, _, hacc⟩ => hacc h₄, fun hacc => ⟨by omega, by omega, by omega, fun _ => hacc⟩⟩

/-- R120: the byte of a payload position is stored where the sum reads next, and added to ACC. -/
theorem checksumInv_of_payloadByte (hs : s.Inv) (h₄ : 4 ≤ s.pos.toNat) (hpos : s.pos.toNat < s.flen.toNat + 2) :
    (((s.setAcc (s.acc + zext16 b)).setPay (memWrite s.pay (payIndex s.pos) b)).setPos (s.pos + 1#5)).ChecksumInv := by
  have hlen := flen_le_of_frameInv hs.1 h₄
  have hsucc := toNat_pos_succ (p := s.pos) (by omega)
  have hseen : s.payloadSeen = s.pos.toNat - 4 := payloadSeen_of_le (by omega)
  have hidx : payIndex s.pos = s.payloadSeen := (payIndex_of_le h₄).trans hseen.symm
  have hsum := paySum_memWrite s.pay (n := s.payloadSeen) (by omega) b
  have hadd := toNat_acc_add_byte (b := b) hs (by omega)
  have hacc := (checksumInv_iff_of_four_le h₄).mp hs.2
  have hnext : s.pos.toNat + 1 - 4 = s.payloadSeen + 1 := by omega
  rw [checksumInv_iff_of_four_le (by rw [State.setPos_pos]; omega), payloadSeen_of_le (by simp; omega)]
  simp only [State.setPos_acc, State.setPay_acc, State.setAcc_acc, State.setPos_flen, State.setPay_flen,
    State.setAcc_flen, State.setPos_pay, State.setPay_pay, State.setPos_pos, hsucc, hidx, hnext]
  omega

/-- R121: the first checksum byte is not summed, and no payload byte is left to come. -/
theorem checksumInv_of_checksumHigh {c : Word} (hs : s.Inv) (h₄ : 4 ≤ s.pos.toNat)
    (hpos : s.pos.toNat = s.flen.toNat + 2) : ((s.setCkr c).setPos (s.pos + 1#5)).ChecksumInv := by
  have hlen := flen_le_of_frameInv hs.1 h₄
  have hsucc : ((s.setCkr c).setPos (s.pos + 1#5)).pos.toNat = s.pos.toNat + 1 := toNat_pos_succ (by omega)
  have hflen : ((s.setCkr c).setPos (s.pos + 1#5)).flen = s.flen := rfl
  have hall : s.payloadSeen = s.flen.toNat - 2 := payloadSeen_of_ge (by omega)
  have hseen : ((s.setCkr c).setPos (s.pos + 1#5)).payloadSeen = s.payloadSeen :=
    (payloadSeen_of_ge (by rw [hsucc, hflen]; omega)).trans hall.symm
  rw [checksumInv_iff_of_four_le (by omega), hseen]
  exact (checksumInv_iff_of_four_le h₄).mp hs.2

/-- Every ingest keeps the sum exact: a byte that is summed is the next of the frame, and any other leaves ACC and what it
sums. -/
theorem ingest_keeps_checksumInv (hs : s.Inv) (h : ingest b s = .next t) : t.ChecksumInv := by
  have ⟨_, h₁, h₂, h₃, _⟩ := hs
  obtain ⟨-, rfl⟩ | ⟨hpos, rfl⟩ | ⟨hpos, rfl⟩ | ⟨hpos, rfl⟩ | ⟨h₄, hpos, rfl⟩ | ⟨h₄, hpos, rfl⟩ | ⟨-, -, rfl⟩ :=
    ingest_next_cases h
  · split
    · simp [State.ChecksumInv]
    · exact (inv_of_pos_zero rfl).2
  · split
    · next hb => simp [State.ChecksumInv, h₁ hpos, hb]
    · exact (inv_of_pos_zero rfl).2
  · simp [State.ChecksumInv, toNat_acc_add_byte (b := b) hs (by omega), h₂ hpos]
  · split
    · rw [checksumInv_iff_of_four_le (by simp)]
      simp [toNat_acc_add_byte (b := b) hs (by omega), h₃ hpos, State.payloadSeen, paySum_zero]
    · exact (inv_of_pos_zero rfl).2
  · exact checksumInv_of_payloadByte hs h₄ hpos
  · exact checksumInv_of_checksumHigh hs h₄ hpos
  · exact (inv_of_pos_zero (by split <;> rfl)).2

theorem ingest_keeps_inv (hs : s.Inv) (h : ingest b s = .next t) : t.Inv :=
  ⟨ingest_keeps_frameInv hs.1 h, ingest_keeps_checksumInv hs h⟩

theorem exec_decodeStep_keeps_inv (hs : s.Inv) (h : exec (decodeStep w) s = .next t) : t.Inv := by
  obtain ⟨-, rfl⟩ | ⟨-, -, rfl⟩ | ⟨-, -, hi⟩ := exec_decodeStep_next_cases h
  · exact inv_of_pos_zero (by rw [applyReset_eq]; rfl)
  · exact hs
  · exact ingest_keeps_inv (s := clearFlags w s) hs hi

theorem fetch_keeps_inv (hs : s.Inv) : (fetch s).2.Inv := by
  unfold fetch
  split <;> exact hs

theorem step_keeps_inv (hs : s.Inv) (h : step s = .next t) : t.Inv :=
  exec_decodeStep_keeps_inv (fetch_keeps_inv hs) h

/-- At the last checksum byte the sum covers the header and all `FLEN - 2` payload bytes (R101). -/
theorem toNat_acc_of_readChecksumLow (hs : s.Inv) (hp : s.phase = .readChecksumLow) :
    s.acc.toNat = 0x42 + 0x4D + (highByte s.flen).toNat + (lowByte s.flen).toNat + paySum s.pay (s.flen.toNat - 2) := by
  obtain ⟨h₄, hpos⟩ := (phase_readChecksumLow_iff s).mp hp
  rw [(checksumInv_iff_of_four_le h₄).mp hs.2, payloadSeen_of_ge (by omega)]

/-- The bounds of that sum for a declared length: `FLEN - 2` payload bytes add between nothing and 255 each (R101). -/
theorem toNat_acc_bounds {len : Nat} (hs : s.Inv) (hp : s.phase = .readChecksumLow) (hlen : s.flen.toNat = len) :
    0x42 + 0x4D + len ≤ s.acc.toNat ∧ s.acc.toNat ≤ 0x42 + 0x4D + len + 255 * (len - 2) := by
  have hle := flen_le_of_frameInv hs.1 ((phase_readChecksumLow_iff s).mp hp).1
  have hacc := toNat_acc_of_readChecksumLow hs hp
  have hpay := paySum_le s.pay (n := len - 2) (by omega)
  rw [toNat_highByte, toNat_lowByte, hlen] at hacc
  omega

/-- Settles O39: every step keeps both invariants, which at the last checksum byte give the sum and its bounds. -/
theorem checksumCoversTheFrame : Obligations.ChecksumCoversTheFrame := by
  refine ⟨fun s t => step_keeps_inv, fun s hs hp => ⟨toNat_acc_of_readChecksumLow hs hp, fun hlen => ?_, fun hlen => ?_⟩⟩
  · exact toNat_acc_bounds (len := 28) hs hp (by rw [hlen]; rfl)
  · exact toNat_acc_bounds (len := 20) hs hp (by rw [hlen]; rfl)

end Sys2Proof.Machine
end

section
/-! A frame fed byte by byte from position 0 (`00_scope.md` R13): its header, its payload, its two checksum bytes. -/

namespace Sys2Proof.Machine

variable {s s₀ : State} {b hi lo : Byte} {ws : List StepWord} {len : Nat} {seen payload : List Byte}

theorem step_of_byte (h : s.inputs = encode (.byte b) :: ws) : step s = exec (.byte b) (s.setInputs ws) := by
  rw [step_of_inputs h, decodeStep_encode rfl]

/-- Where the buffer starts with a list of bytes, its sum over them is theirs. -/
theorem paySum_eq_sum {p : Vector Byte 26} {bs : List Byte} (hlen : bs.length ≤ 26)
    (h : ∀ i : Fin 26, ∀ hi : i.val < bs.length, memRead p i = bs[i.val]) :
    paySum p bs.length = (bs.map BitVec.toNat).sum := by
  have htake : p.toList.take bs.length = bs := by
    apply List.ext_getElem
    · simpa using hlen
    · intro i _ hi
      simpa [memRead] using h ⟨i, by omega⟩ hi
  rw [paySum, htake]

/-- What the state is once the header of length `len` and then the payload bytes `seen` have been fed from `s₀`. ACC is not
named: the checksum invariant says what it is. -/
structure PayloadFed (s₀ : State) (len : Nat) (seen : List Byte) (s : State) : Prop where
  pos : s.pos.toNat = seen.length + 4
  flen : s.flen.toNat = len
  pay : ∀ i : Fin 26, memRead s.pay i = (seen[i.val]?).getD (memRead s₀.pay i)
  record : s.record = s₀.record
  status : s.status = s₀.status
  done : s.done = false
  inv : s.Inv

/-- The state inside the header of a frame fed from `s`. -/
def State.inHeader (s : State) (pos : Pos) (flen acc : Word) (ws : List StepWord) : State :=
  { s with pos := pos, flen := flen, acc := acc, done := false, inputs := ws }

/-- R105, for a length that passes. -/
theorem exec_byte_of_lengthLow {l : Word} (hpos : s.pos = 3#5) (hload : s.flen.extractLsb' 8 8 ++ b = l)
    (hok : l = 20#16 ∨ l = 28#16) :
    exec (.byte b) s = .next { s with flen := l, acc := s.acc + b.setWidth 16, done := false, pos := 4#5 } := by
  rw [(lengthLowIsChecked b s hpos).2, hload, if_pos hok]

/-- The four header bytes, one equation each (R102 to R105). -/
theorem payloadFed_of_header (hlen : len = 20 ∨ len = 28) (hpos : s.pos = 0#5)
    (hin : s.inputs = [0x42#8, 0x4D#8, 0x00#8, BitVec.ofNat 8 len].map (fun b => encode (.byte b)) ++ ws) :
    ∃ t, Sys2Proof.core.run 4 s = .next t ∧ PayloadFed s len [] t ∧ t.inputs = ws := by
  have hload : (0x0000#16).extractLsb' 8 8 ++ BitVec.ofNat 8 len = BitVec.ofNat 16 len := by
    obtain rfl | rfl := hlen <;> decide
  have h₁ {w} (h : s.inputs = encode (.byte 0x42#8) :: w) : step s = .next (s.inHeader 1#5 s.flen 0x42#16 w) :=
    (step_of_byte h).trans (marker1StartsAFrame 0x42#8 (s.setInputs w) hpos).2
  have h₂ {f a w} : step (s.inHeader 1#5 f a (encode (.byte 0x4D#8) :: w)) =
      .next (s.inHeader 2#5 f (a + zext16 0x4D#8) w) :=
    (step_of_byte rfl).trans (marker2IsCheckedNotRetested 0x4D#8 _ rfl).2
  have h₃ {f a w} : step (s.inHeader 2#5 f a (encode (.byte 0x00#8) :: w)) =
      .next (s.inHeader 3#5 0x0000#16 (a + zext16 0x00#8) w) :=
    (step_of_byte rfl).trans (lengthHighIsStored 0x00#8 _ rfl).2
  have h₄ {a w} : step (s.inHeader 3#5 0x0000#16 a (encode (.byte (BitVec.ofNat 8 len)) :: w)) =
      .next (s.inHeader 4#5 (BitVec.ofNat 16 len) (a + zext16 (BitVec.ofNat 8 len)) w) :=
    (step_of_byte rfl).trans (exec_byte_of_lengthLow rfl hload (hlen.imp (congrArg _) (congrArg _)))
  have hrun := (run_succ_of_next (k := 3) (h₁ hin)).trans ((run_succ_of_next (k := 2) h₂).trans
    ((run_succ_of_next (k := 1) h₃).trans (run_succ_of_next (k := 0) h₄)))
  refine ⟨_, hrun, ⟨rfl, ?_, fun i => rfl, rfl, rfl, rfl, ?_⟩, rfl⟩
  · obtain rfl | rfl := hlen <;> rfl
  · exact run_induction (fun _ _ => step_keeps_inv) (inv_of_pos_zero hpos) hrun

/-- R120: the next payload byte, while one is missing. -/
theorem PayloadFed.step_byte (hf : PayloadFed s₀ len seen s) (hroom : seen.length + 2 < len)
    (hin : s.inputs = encode (.byte b) :: ws) :
    ∃ t, step s = .next t ∧ PayloadFed s₀ len (seen ++ [b]) t ∧ t.inputs = ws := by
  obtain ⟨hpos, hflen, hpay, hrecord, hstatus, -, hinv⟩ := hf
  have hlen := flen_le_of_frameInv hinv.1 (by omega)
  have hp : s.phase = .readPayload := (phase_readPayload_iff s).mpr (by omega)
  have hi := ingest_of_readPayload (s := (s.setInputs ws).setDone false) (b := b) hp
  have hstep := (step_of_byte hin).trans hi
  refine ⟨_, hstep, ⟨?_, hflen, fun i => ?_, hrecord, hstatus, rfl, step_keeps_inv hinv hstep⟩, rfl⟩
  · have hsucc := toNat_pos_succ (p := s.pos) (by omega)
    simp only [State.setPos_pos, State.setDone_pos, State.setInputs_pos, List.length_append, List.length_singleton]
    omega
  · have hat : s.pos.toNat = i.val + 4 ↔ i.val = seen.length := by omega
    rw [memRead_pay_of_ingest hi]
    simp only [State.phase_setDone, State.phase_setInputs, State.setDone_pos, State.setInputs_pos, State.setDone_pay,
      State.setInputs_pay, hp, true_and, hat, hpay]
    obtain hlt | heq | hgt := Nat.lt_trichotomy i.val seen.length
    · rw [if_neg hlt.ne, List.getElem?_append_left hlt]
    · rw [if_pos heq, heq, List.getElem?_concat_length]
      rfl
    · rw [if_neg hgt.ne', List.getElem?_eq_none hgt.le, List.getElem?_eq_none (by simpa using hgt)]

/-- Any number of payload bytes, as long as the declared length holds them. -/
theorem PayloadFed.run_bytes : ∀ (bs : List Byte) {seen : List Byte} {s : State}, PayloadFed s₀ len seen s →
    seen.length + bs.length + 2 ≤ len → s.inputs = bs.map (fun b => encode (.byte b)) ++ ws →
    ∃ t, Sys2Proof.core.run bs.length s = .next t ∧ PayloadFed s₀ len (seen ++ bs) t ∧ t.inputs = ws
  | [], _, s, hf, _, hin => ⟨s, rfl, by rwa [List.append_nil], hin⟩
  | b :: bs, seen, s, hf, hroom, hin => by
    rw [List.length_cons] at hroom
    obtain ⟨t, ht, hft, hint⟩ := hf.step_byte (by omega) hin
    obtain ⟨u, hu, hfu, hinu⟩ := run_bytes bs hft (by rw [List.length_append, List.length_singleton]; omega) hint
    exact ⟨u, (run_succ_of_next ht).trans hu, by rwa [List.append_cons], hinu⟩

/-- R101: once the declared payload is complete, ACC is the sum of the whole frame before its checksum. -/
theorem PayloadFed.toNat_acc (hf : PayloadFed s₀ len payload s) (hfull : payload.length + 2 = len) :
    s.acc.toNat = 0x42 + 0x4D + len + (payload.map BitVec.toNat).sum := by
  obtain ⟨hpos, hflen, hpay, -, -, -, hinv⟩ := hf
  have h₄ : 4 ≤ s.pos.toNat := by omega
  have hlen := flen_le_of_frameInv hinv.1 h₄
  have hhigh : (highByte s.flen).toNat = 0 := by rw [toNat_highByte]; omega
  have hlow : (lowByte s.flen).toNat = len := by rw [toNat_lowByte]; omega
  have hseen : s.payloadSeen = payload.length := (payloadSeen_of_ge (by omega)).trans (by omega)
  have hsum : paySum s.pay payload.length = (payload.map BitVec.toNat).sum :=
    paySum_eq_sum (by omega) fun i hi => by rw [hpay, List.getElem?_eq_getElem hi, Option.getD_some]
  rw [(checksumInv_iff_of_four_le h₄).mp hinv.2, hhigh, hlow, hseen, hsum]

/-- R121: the first checksum byte of a complete frame. -/
theorem PayloadFed.step_checksumHigh (hf : PayloadFed s₀ len payload s) (hfull : payload.length + 2 = len)
    (hin : s.inputs = encode (.byte hi) :: ws) :
    ∃ t, step s = .next t ∧ t.phase = .readChecksumLow ∧ t.ckr = loadHigh hi ∧ t.acc = s.acc ∧ t.pay = s.pay ∧
      t.record = s.record ∧ t.status = s.status ∧ t.inputs = ws := by
  obtain ⟨hpos, hflen, -, -, -, -, hinv⟩ := hf
  have hlen := flen_le_of_frameInv hinv.1 (by omega)
  have hp : s.phase = .readChecksumHigh := (phase_readChecksumHigh_iff s).mpr (by omega)
  have hsucc := toNat_pos_succ (p := s.pos) (by omega)
  refine ⟨_, (step_of_byte hin).trans (ingest_of_readChecksumHigh (s := (s.setInputs ws).setDone false) hp), ?_,
    rfl, rfl, rfl, rfl, rfl, rfl⟩
  rw [phase_readChecksumLow_iff]
  simp only [State.setPos_pos, State.setDone_pos, State.setInputs_pos, State.setPos_flen, State.setCkr_flen,
    State.setDone_flen, State.setInputs_flen]
  omega

/-- R122: the last byte of a frame. It publishes PAY if the received checksum is ACC, and else leaves what the host reads. -/
theorem step_checksumLow (hp : s.phase = .readChecksumLow) (hin : s.inputs = encode (.byte lo) :: ws) :
    ∃ t, step s = .next t ∧ t.pos = 0#5 ∧ t.inputs = ws ∧ t.pay = s.pay ∧
      (loadLow s.ckr lo = s.acc → t.status = .ok ∧ t.done = true ∧ t.record = decodeRecord s.pay) ∧
      (loadLow s.ckr lo ≠ s.acc → t.status = s.status ∧ t.done = false ∧ t.record = s.record) := by
  have h := (step_of_byte hin).trans (ingest_of_readChecksumLow (s := (s.setInputs ws).setDone false) hp)
  by_cases hc : loadLow s.ckr lo = s.acc
  · rw [State.setDone_ckr, State.setInputs_ckr, State.setDone_acc, State.setInputs_acc, if_pos hc] at h
    exact ⟨_, h, rfl, rfl, rfl, fun _ => ⟨rfl, rfl, rfl⟩, absurd hc⟩
  · rw [State.setDone_ckr, State.setInputs_ckr, State.setDone_acc, State.setInputs_acc, if_neg hc] at h
    exact ⟨_, h, rfl, rfl, rfl, fun h => absurd h hc, fun _ => ⟨rfl, rfl, rfl⟩⟩

/-- The two checksum bytes of a complete frame together. -/
theorem PayloadFed.run_checksum (hf : PayloadFed s₀ len payload s) (hfull : payload.length + 2 = len)
    (hin : s.inputs = [hi, lo].map (fun b => encode (.byte b)) ++ ws) :
    ∃ t, Sys2Proof.core.run 2 s = .next t ∧ t.pos = 0#5 ∧ t.inputs = ws ∧ t.pay = s.pay ∧
      (concat hi lo = s.acc → t.status = .ok ∧ t.done = true ∧ t.record = decodeRecord s.pay) ∧
      (concat hi lo ≠ s.acc → t.status = s₀.status ∧ t.done = false ∧ t.record = s₀.record) := by
  obtain ⟨u, hu, hp, hckr, hacc, hpay, hrecord, hstatus, hinu⟩ := hf.step_checksumHigh hfull hin
  obtain ⟨t, ht, hpos, hint, hpayt, hmatch, hmismatch⟩ := step_checksumLow hp hinu
  rw [hckr, loadLow, highByte_loadHigh, hacc] at hmatch hmismatch
  rw [hpay] at hpayt hmatch
  rw [hstatus, hrecord, hf.status, hf.record] at hmismatch
  exact ⟨t, (run_succ_of_next (k := 1) hu).trans (run_succ_of_next (k := 0) ht), hpos, hint, hpayt, hmatch, hmismatch⟩

/-- Settles O41: the header, the payload and the checksum bytes, one after the other. -/
theorem frameFedAtPositionZero : Obligations.FrameFedAtPositionZero := by
  intro len payload hi lo s rest hlen hpayload hpos hin
  have hfull : payload.length + 2 = len := by omega
  simp only [List.map_append, List.append_assoc] at hin
  obtain ⟨u, hu, hfu, hinu⟩ := payloadFed_of_header hlen hpos hin
  obtain ⟨v, hv, hfv, hinv⟩ := hfu.run_bytes payload (by simp only [List.length_nil]; omega) hinu
  obtain ⟨t, ht, hpost, hint, hpayt, hmatch, hmismatch⟩ := hfv.run_checksum hfull hinv
  have hrun : Sys2Proof.core.run (4 + payload.length + 2) s = .next t := by
    rw [Nat.add_assoc, run_add _ hu, run_add _ hv, ht]
  have hck : concat hi lo = v.acc ↔
      hi.toNat * 256 + lo.toNat = 0x42 + 0x4D + len + (payload.map BitVec.toNat).sum := by
    rw [← BitVec.toNat_inj, toNat_concat, hfv.toNat_acc hfull]
    rfl
  have hsteps : len + 4 = 4 + payload.length + 2 := by omega
  refine ⟨t, hsteps ▸ hrun, hpost, hint, fun i => hpayt ▸ hfv.pay i, fun h => ?_, fun h => hmismatch (hck.not.mpr h)⟩
  obtain ⟨hstatus, hdone, hrecord⟩ := hmatch (hck.mpr h)
  refine ⟨hstatus, hdone, fun k => ?_⟩
  rw [hrecord, hpayt, decodeRecord_getElem]
  rfl

end Sys2Proof.Machine
end

section
/-! The payload and checksum operations, each in the phase that selects it (`41_ingest_payload_checksum.md` R120 to R123). -/

namespace Sys2Proof.Machine

/-- Settles O24: ING_PAY is the ingest of PHASE 4, which writes PAY at the index of the position alone. -/
theorem payloadByteIsStoredAndSummed : Obligations.PayloadByteIsStoredAndSummed := by
  intro b s hp
  have hi := ingest_of_readPayload (b := b) hp
  have h₄ := ((phase_readPayload_iff s).mp hp).1
  refine ⟨_, (exec_operation_of_phase hp).trans hi, rfl, toNat_pos_succ, fun i => ?_, rfl, rfl, fun _ => rfl, rfl, rfl,
    rfl, rfl⟩
  have hat : (s.phase = .readPayload ∧ s.pos.toNat = i.val + 4) ↔ i.val = s.pos.toNat - 4 :=
    (and_iff_right hp).trans (by omega)
  exact (memRead_pay_of_ingest hi i).trans (if_congr hat rfl rfl)

/-- Settles O25: ING_CKH is the ingest of PHASE 5. -/
theorem checksumHighIsStored : Obligations.ChecksumHighIsStored := by
  intro b s hp
  exact ⟨_, (exec_operation_of_phase hp).trans (ingest_of_readChecksumHigh hp), rfl, toNat_pos_succ, rfl, rfl,
    fun _ => rfl, fun _ => rfl, rfl, rfl, rfl, rfl⟩

/-- Settles O26: ING_CKL is the ingest of PHASE 6, whose two branches are the match and the mismatch. -/
theorem checksumLowValidatesAndPublishes : Obligations.ChecksumLowValidatesAndPublishes := by
  intro b s hp c
  have hi := (exec_operation_of_phase hp).trans (ingest_of_readChecksumLow (b := b) hp)
  refine ⟨fun hmatch => ⟨_, hi.trans (congrArg _ (if_pos hmatch)), fun k => ?_, rfl⟩,
    fun hmismatch => hi.trans (congrArg _ (if_neg hmismatch))⟩
  exact decodeRecord_getElem s.pay k

end Sys2Proof.Machine
end

section
/-! No resynchronisation inside a frame (`41_ingest_payload_checksum.md` R127). -/

namespace Sys2Proof.Machine

variable {s : State}

/-- From the length check to the byte before the last, every byte is payload or the first checksum byte. -/
theorem ingest_advances_inside_frame (b : Byte) (hs : s.FrameInv) (h₄ : 4 ≤ s.pos.toNat)
    (hle : s.pos.toNat ≤ s.flen.toNat + 2) :
    ∃ t, ingest b s = .next t ∧ t.flen = s.flen ∧ t.pos.toNat = s.pos.toNat + 1 := by
  have hlen := flen_le_of_frameInv hs h₄
  have hsucc : (s.pos + 1#5).toNat = s.pos.toNat + 1 := toNat_pos_succ (by omega)
  obtain hpay | hckh := hle.lt_or_eq
  · exact ⟨_, ingest_of_readPayload ((phase_readPayload_iff s).mpr ⟨h₄, hpay⟩), rfl, hsucc⟩
  · exact ⟨_, ingest_of_readChecksumHigh ((phase_readChecksumHigh_iff s).mpr ⟨h₄, hckh⟩), rfl, hsucc⟩

/-- Settles O34: without RST a step ingests its byte inside the frame, or only clears flags. -/
theorem noResyncInsideAFrame : Obligations.NoResyncInsideAFrame := by
  intro w s hs h₄ hle hr
  rw [exec_decodeStep_eq, if_neg (hr ▸ Bool.false_ne_true)]
  split_ifs
  · exact ingest_advances_inside_frame (s := clearFlags w s) _ hs h₄ hle
  · exact ⟨_, rfl, rfl, rfl⟩

end Sys2Proof.Machine
end

section
/-! The length of a frame on the wire (`41_ingest_payload_checksum.md` R126): POS never exceeds the number of bytes ingested
since it was 0, and a validation happens at position 23 or later. -/

namespace Sys2Proof.Machine

variable {w : StepWord} {s t : State} {rest : List StepWord}

/-- A step of the word ingests a byte: no RST, and a valid byte (`42_step_control.md` R140). -/
def ingestsByte (w : StepWord) : Bool := !w.getLsbD 10 && w.getLsbD 8

theorem ingestsByte_iff : ingestsByte w = true ↔ w.getLsbD 10 = false ∧ w.getLsbD 8 = true := by
  simp [ingestsByte]

theorem exec_decodeStep_pos_le (h : exec (decodeStep w) s = .next t) :
    t.pos.toNat ≤ s.pos.toNat + if ingestsByte w then 1 else 0 := by
  obtain ⟨-, rfl⟩ | ⟨-, -, rfl⟩ | ⟨hr, hv, hi⟩ := exec_decodeStep_next_cases h
  · exact Nat.zero_le _
  · exact Nat.le_add_right _ _
  · rw [if_pos (ingestsByte_iff.mpr ⟨hr, hv⟩)]
    obtain hpos | hpos := (ingestFrame_of_next hi).pos
    · rw [hpos]
      exact Nat.zero_le _
    · exact hpos.le

/-- The byte that validates stands at position FLEN + 3, of a declared length of at least 20. -/
theorem twentyFour_le_of_done (hs : s.FrameInv) (h : exec (decodeStep w) s = .next t) (hdone : t.done = true) :
    24 ≤ s.pos.toNat + if ingestsByte w then 1 else 0 := by
  obtain ⟨hr, hv, hp, -⟩ := (doneMarksValidation w s t h).1.mp hdone
  obtain ⟨h₄, hpos⟩ := (phase_readChecksumLow_iff s).mp hp
  have hlen : 20 ≤ s.flen.toNat := by obtain h | h := (hs h₄).1 <;> simp [h]
  rw [if_pos (ingestsByte_iff.mpr ⟨hr, hv⟩)]
  omega

/-- Over a run that ends in a validation, the bytes ingested make up what POS lacks of 24. -/
theorem twentyFour_le_of_run_done (ws : List StepWord) (hs : s.FrameInv) (hin : s.inputs = w :: (ws ++ rest))
    (hrun : Sys2Proof.core.run (ws.length + 1) s = .next t) (hdone : t.done = true) :
    24 ≤ s.pos.toNat + (w :: ws).countP ingestsByte := by
  induction ws generalizing w s with
  | nil =>
    obtain ⟨u, hu, hr⟩ := step_of_run_succ hrun
    cases hr
    rw [step_of_inputs hin] at hu
    simpa [List.countP_cons] using twentyFour_le_of_done (s := s.setInputs rest) hs hu hdone
  | cons w' ws ih =>
    obtain ⟨u, hu, hr⟩ := step_of_run_succ hrun
    rw [step_of_inputs hin] at hu
    have hpos := exec_decodeStep_pos_le hu
    have hinv := exec_decodeStep_keeps_frameInv (s := s.setInputs (w' :: ws ++ rest)) hs hu
    have htail := ih hinv (exec_keeps_environment hu).1 hr
    rw [State.setInputs_pos] at hpos
    rw [List.countP_cons]
    omega

/-- Settles O42: at POS 0 all of the 24 are to come. -/
theorem validationNeedsTwentyFourBytes : Obligations.ValidationNeedsTwentyFourBytes := by
  intro ws rest s t hpos hin hne hrun hdone
  obtain ⟨w, ws, rfl⟩ := List.exists_cons_of_ne_nil hne
  have hcount := twentyFour_le_of_run_done ws (inv_of_pos_zero hpos).1 hin hrun hdone
  rw [hpos] at hcount
  exact hcount.trans_eq (Nat.zero_add _)

end Sys2Proof.Machine
end

section
/-! The thirteenth payload word reaches no output (`41_ingest_payload_checksum.md` R125): publication reads PAY[0..23], and
nothing else reads PAY. -/

namespace Sys2Proof.Machine

variable {s t u : State} {b : Byte} {p q : Vector Byte 26}

/-- Two buffers hold the same words 0 to 11. -/
def SamePublished (p q : Vector Byte 26) : Prop := ∀ i : Fin 26, i.val < 24 → memRead p i = memRead q i

theorem SamePublished.decodeRecord_eq (h : SamePublished p q) : decodeRecord p = decodeRecord q := by
  have hfield : decodeField p = decodeField q := by
    funext k
    unfold decodeField
    rw [h ⟨2 * k.val, _⟩ (by simp only; omega), h ⟨2 * k.val + 1, _⟩ (by simp only; omega)]
  rw [decodeRecord, hfield, decodeRecord]

theorem SamePublished.memWrite (h : SamePublished p q) (i : Nat) (v : Byte) :
    SamePublished (memWrite p i v) (memWrite q i v) := by
  intro j hj
  by_cases hij : i = j.val
  · rw [hij, memRead_memWrite_same, memRead_memWrite_same]
  · rw [memRead_memWrite_other p v hij, memRead_memWrite_other q v hij, h j hj]

/-- Two states that differ in PAY[24..25] at most. -/
def PayTwins (s u : State) : Prop := ∃ p, u = s.setPay p ∧ SamePublished p s.pay

/-- An ingest from twins completes for both and ends in twins: a payload byte is stored in both buffers, and the record that
a validation publishes is the same. -/
theorem ingest_payTwins (hT : PayTwins s u) (h : ingest b s = .next t) :
    ∃ v, ingest b u = .next v ∧ PayTwins t v := by
  obtain ⟨p, rfl, hp⟩ := hT
  cases hphase : s.phase with
  | awaitMarker1 =>
    cases (ingest_of_awaitMarker1 hphase).symm.trans h
    refine ⟨_, ingest_of_awaitMarker1 (s := s.setPay p) hphase, p, ?_⟩
    split <;> exact ⟨rfl, hp⟩
  | awaitMarker2 =>
    cases (ingest_of_awaitMarker2 hphase).symm.trans h
    refine ⟨_, ingest_of_awaitMarker2 (s := s.setPay p) hphase, p, ?_⟩
    rw [State.setPay_acc]
    split <;> exact ⟨rfl, hp⟩
  | readLengthHigh =>
    cases (ingest_of_readLengthHigh hphase).symm.trans h
    exact ⟨_, ingest_of_readLengthHigh (s := s.setPay p) hphase, p, rfl, hp⟩
  | readLengthLow =>
    cases (ingest_of_readLengthLow hphase).symm.trans h
    exact ⟨_, ingest_of_readLengthLow (s := s.setPay p) hphase, p, rfl, hp⟩
  | readPayload =>
    cases (ingest_of_readPayload hphase).symm.trans h
    exact ⟨_, ingest_of_readPayload (s := s.setPay p) hphase, _, rfl, hp.memWrite _ b⟩
  | readChecksumHigh =>
    cases (ingest_of_readChecksumHigh hphase).symm.trans h
    exact ⟨_, ingest_of_readChecksumHigh (s := s.setPay p) hphase, p, rfl, hp⟩
  | readChecksumLow =>
    cases (ingest_of_readChecksumLow hphase).symm.trans h
    refine ⟨_, ingest_of_readChecksumLow (s := s.setPay p) hphase, p, ?_⟩
    rw [State.setPay_ckr, State.setPay_acc, publish_eq, publish_eq, State.setCkr_pay, State.setPay_pay, State.setCkr_pay,
      hp.decodeRecord_eq]
    split <;> exact ⟨rfl, hp⟩
  | unreachable => cases (ingest_of_phase_unreachable b hphase).symm.trans h

theorem exec_decodeStep_payTwins {w : StepWord} (hT : PayTwins s u)
    (h : exec (decodeStep w) s = .next t) : ∃ v, exec (decodeStep w) u = .next v ∧ PayTwins t v := by
  obtain ⟨p, rfl, hp⟩ := hT
  rw [exec_decodeStep_eq]
  obtain ⟨hr, rfl⟩ | ⟨hr, hv, rfl⟩ | ⟨hr, hv, hi⟩ := exec_decodeStep_next_cases h
  · exact ⟨_, if_pos hr, p, rfl, hp⟩
  · exact ⟨_, by rw [hr, hv]; rfl, p, rfl, hp⟩
  · rw [hr, hv]
    exact ingest_payTwins (s := clearFlags w s) ⟨p, rfl, hp⟩ hi

theorem fetch_setPay (s : State) (p : Vector Byte 26) :
    fetch (s.setPay p) = ((fetch s).1, (fetch s).2.setPay p) := by
  unfold fetch
  rw [State.setPay_inputs]
  split <;> rfl

theorem step_payTwins (s u t : State) (hT : PayTwins s u) (h : step s = .next t) :
    ∃ v, step u = .next v ∧ PayTwins t v := by
  obtain ⟨p, rfl, hp⟩ := hT
  obtain ⟨-, -, -, -, hpay, -⟩ := fetch_registers s
  rw [step, fetch_setPay]
  exact exec_decodeStep_payTwins ⟨p, rfl, hpay ▸ hp⟩ h

/-- Settles O45: a run from twins ends in twins, and twins have the same outputs. -/
theorem thirteenthWordIsNotPublished : Obligations.ThirteenthWordIsNotPublished := by
  intro k s t p hp h
  have hT : PayTwins s (s.setPay p) := ⟨p, rfl, hp⟩
  obtain ⟨_, hrun, _, rfl, -⟩ := run_related step_payTwins k hT h
  exact ⟨_, hrun, rfl, rfl, rfl, rfl⟩

end Sys2Proof.Machine
end

section
/-! One step by the values of its four ports (`42_step_control.md` R140), and the STEP operations (R141 to R144). -/

namespace Sys2Proof.Machine

variable {s t : State} {b : Byte}

/-- Settles O5: sampling takes the oldest word lined up, or draws a free one. -/
theorem stepRunsTheDecodedWord : Obligations.StepRunsTheDecodedWord :=
  ⟨fun _ _ _ => step_of_inputs, fun _ => step_of_nil, fun s _ w => step_of_inputs (s := present s w) rfl⟩

/-- R140: what the ports `clr_status`, `in_valid` and `in_byte` ask for, unless `rst` is up. -/
theorem exec_decodeStep_portWord (r c v : Bool) (b : Byte) (s : State) :
    exec (decodeStep (portWord r c v b)) s =
      if r then .next (applyReset s)
      else if v then ingest b (clearFlags (portWord r c v b) s)
      else .next (clearFlags (portWord r c v b) s) := by
  have hr : (portWord r c v b).getLsbD 10 = r := stepR_portWord r c v b
  have hv : (portWord r c v b).getLsbD 8 = v := stepV_portWord r c v b
  have hb : (portWord r c v b).extractLsb' 0 8 = b := wordByte_portWord r c v b
  rw [exec_decodeStep_eq, hr, hv, hb]

theorem clearFlags_portWord (r c v : Bool) (b : Byte) (s : State) :
    clearFlags (portWord r c v b) s =
      if c then (s.setDone false).setStatus .waiting else s.setDone false := by
  have hc : (portWord r c v b).getLsbD 9 = c := stepC_portWord r c v b
  rw [clearFlags, hc]
  cases c <;> rfl

/-- Settles O6: the ports select among the reset, the ingest and the clears alone, and a byte that validates writes
STATUS after the clear. -/
theorem stepFollowsPorts : Obligations.StepFollowsPorts := by
  refine ⟨fun b s hv => ?_, fun r c v b s => ?_⟩
  · have hi := ingest_of_validates (s := clearFlags (portWord false true true b) s) hv
    exact ⟨_, (exec_decodeStep_portWord false true true b s).trans hi, rfl⟩
  · rw [exec_decodeStep_portWord, clearFlags_portWord]
    rfl

/-- Settles O11: the next state is `clearDone` of the state. -/
theorem idleOnlyEndsThePulse : Obligations.IdleOnlyEndsThePulse := fun _ => rfl

/-- Settles O12: the next state is `clearStatus` and `clearDone` of the state. -/
theorem clrClearsStatusAndDone : Obligations.ClrClearsStatusAndDone := fun _ => rfl

/-- Outside PHASE 7 an ingest completes; it sets both flags if the byte validates and keeps both if not. -/
theorem ingest_completes_with_flags (b : Byte) (hp : s.phase ≠ .unreachable) :
    ∃ t, ingest b s = .next t ∧ t.inputs = s.inputs ∧ t.draws = s.draws ∧
      (s.phase = .readChecksumLow ∧ loadLow s.ckr b = s.acc → t.done = true ∧ t.status = .ok) ∧
      (¬(s.phase = .readChecksumLow ∧ loadLow s.ckr b = s.acc) → t.done = s.done ∧ t.status = s.status) := by
  obtain ⟨t, ht⟩ := ingest_completes (b := b) hp
  have hf := ingestFrame_of_next ht
  refine ⟨t, ht, hf.inputs, hf.draws, ?_⟩
  rw [← validates_iff]
  obtain ⟨hv, hok, hdone, -⟩ | ⟨hv, -, hstatus, hdone⟩ := ingest_outputs ht
  · exact ⟨fun _ => ⟨hdone, hok⟩, fun hv' => absurd hv hv'⟩
  · exact ⟨fun hv' => absurd (hv.symm.trans hv') Bool.noConfusion, fun _ => ⟨hdone, hstatus⟩⟩

/-- Settles O13: the ingest finds DONE at 0 and STATUS as it was. -/
theorem byteStepCompletes : Obligations.ByteStepCompletes := fun b s hp =>
  (ingest_completes_with_flags (s := s.setDone false) b hp).imp fun _ ⟨ht, hrest⟩ => ⟨ht, ht, hrest⟩

/-- Settles O14: the ingest finds DONE and STATUS at 0. -/
theorem clrbyteStepCompletes : Obligations.ClrbyteStepCompletes := fun b s hp =>
  (ingest_completes_with_flags (s := (s.setDone false).setStatus .waiting) b hp).imp
    fun _ ⟨ht, hrest⟩ => ⟨ht, ht, hrest⟩

/-- No ingest reads STATUS, and one that does not validate does not write it. -/
theorem ingest_setStatus_of_not_validates (v : Status) (hv : validates s b = false) (h : ingest b s = .next t) :
    ingest b (s.setStatus v) = .next (t.setStatus v) := by
  cases hp : s.phase with
  | awaitMarker1 =>
    cases (ingest_of_awaitMarker1 hp).symm.trans h
    refine (ingest_of_awaitMarker1 (s := s.setStatus v) hp).trans ?_
    split <;> rfl
  | awaitMarker2 =>
    cases (ingest_of_awaitMarker2 hp).symm.trans h
    refine (ingest_of_awaitMarker2 (s := s.setStatus v) hp).trans ?_
    split <;> rfl
  | readLengthHigh =>
    cases (ingest_of_readLengthHigh hp).symm.trans h
    exact ingest_of_readLengthHigh (s := s.setStatus v) hp
  | readLengthLow =>
    cases (ingest_of_readLengthLow hp).symm.trans h
    exact ingest_of_readLengthLow (s := s.setStatus v) hp
  | readPayload =>
    cases (ingest_of_readPayload hp).symm.trans h
    exact ingest_of_readPayload (s := s.setStatus v) hp
  | readChecksumHigh =>
    cases (ingest_of_readChecksumHigh hp).symm.trans h
    exact ingest_of_readChecksumHigh (s := s.setStatus v) hp
  | readChecksumLow =>
    have hc : loadLow s.ckr b ≠ s.acc := fun hc => nomatch hv.symm.trans (validates_iff.mpr ⟨hp, hc⟩)
    cases (ingest_of_readChecksumLow hp).symm.trans h
    rw [if_neg hc]
    exact (ingest_of_readChecksumLow (s := s.setStatus v) hp).trans (congrArg _ (if_neg hc))
  | unreachable => cases (ingest_of_phase_unreachable b hp).symm.trans h

/-- Settles O15: a byte that validates overwrites the cleared STATUS, any other leaves it. -/
theorem clearDoesNotDisturbIngest : Obligations.ClearDoesNotDisturbIngest := by
  intro b s t h
  obtain ⟨hv, -⟩ | ⟨hv, -, -, hdone⟩ := ingest_outputs (s := s.setDone false) h
  · cases (ingest_of_validates (s := s.setDone false) hv).symm.trans h
    exact ingest_of_validates (s := (s.setDone false).setStatus .waiting) hv
  · have hoff : ¬t.done = true := by simp [hdone]
    rw [if_neg hoff]
    exact ingest_setStatus_of_not_validates (s := s.setDone false) .waiting hv h

end Sys2Proof.Machine
end

section
/-! Runs of steps (`42_step_control.md` R141, R146, R148): the kept fault, the frame in progress, and the record. -/

namespace Sys2Proof.Machine

variable {s t : State} {w : StepWord}

/-- Settles O16: PHASE 7 is where an ingest faults, and the frame invariant, which power-on has, keeps every run out of
it. -/
theorem unreachablePhaseFaults : Obligations.UnreachablePhaseFaults := by
  refine ⟨fun _ _ => rfl, fun b s hp => ⟨?_, ?_⟩, fun k b s ws hp hin => ?_, phase_unreachable_iff,
    fun k p ws f hf => ?_⟩
  · exact ingest_of_phase_unreachable (s := s.setDone false) b hp
  · exact ingest_of_phase_unreachable (s := (s.setDone false).setStatus .waiting) b hp
  · have hstep : step s = .fault .unreachable :=
      (step_of_byte hin).trans (ingest_of_phase_unreachable (s := (s.setInputs ws).setDone false) b hp)
    exact run_succ_of_fault hstep
  · obtain ⟨t, ht, -⟩ := everyRunCompletes k _ (resetMeetsTheInvariants.2 p ws).1
    cases ht.symm.trans hf

theorem step_of_idle {ws : List StepWord} (h : s.inputs = 0x000#11 :: ws) :
    step s = .next ((s.setInputs ws).setDone false) := step_of_inputs h

/-- Settles O43, by induction on the number of IDLE words. -/
theorem idleNeverAbandonsAFrame : Obligations.IdleNeverAbandonsAFrame := by
  intro n
  induction n with
  | zero =>
    intro s rest hin
    obtain rfl : s.inputs = rest := hin
    simp
  | succ n ih =>
    intro s rest hin
    rw [run_succ_of_next (step_of_idle hin), ih _ rest rfl]
    simp [State.setInputs, State.setDone]

/-- Every field of the record is the sentinel (`10_state.md` R33). -/
def State.HoldsSentinel (s : State) : Prop := ∀ i : Fin 12, s.record[i.val] = Config.sentinel

theorem holdsSentinel_of_record_eq (hs : s.HoldsSentinel) (h : t.record = s.record) : t.HoldsSentinel := by
  intro i
  rw [h]
  exact hs i

/-- A step that ends with DONE 0 validates no frame, so it leaves the record or resets it to the sentinel. -/
theorem exec_decodeStep_keeps_sentinel (hs : s.HoldsSentinel) (h : exec (decodeStep w) s = .next t)
    (hdone : t.done = false) : t.HoldsSentinel := by
  obtain ⟨-, rfl⟩ | ⟨-, -, rfl⟩ | ⟨-, -, hi⟩ := exec_decodeStep_next_cases h
  · intro i
    simp [applyReset_eq]
  · exact hs
  · obtain ⟨-, -, hon, -⟩ | ⟨-, hrec, -⟩ := ingest_outputs hi
    · cases hdone.symm.trans hon
    · exact holdsSentinel_of_record_eq hs hrec

theorem step_keeps_sentinel (hs : s.HoldsSentinel) (h : step s = .next t) (hdone : t.done = false) :
    t.HoldsSentinel := by
  obtain ⟨-, -, -, -, -, hrec, -⟩ := fetch_registers s
  exact exec_decodeStep_keeps_sentinel (holdsSentinel_of_record_eq hs hrec) h hdone

/-- Settles O44, by induction on the length of the run. -/
theorem sentinelUntilFirstValidation : Obligations.SentinelUntilFirstValidation := by
  intro k
  induction k with
  | zero =>
    intro s t hs _ hrun
    cases hrun
    exact hs
  | succ k ih =>
    intro s t hs hquiet hrun
    obtain ⟨u, hu, hr⟩ := step_of_run_succ hrun
    have hdone : u.done = false := hquiet 1 u le_rfl (by omega) (run_succ_of_next hu)
    refine ih u t (step_keeps_sentinel hs hu hdone) (fun j v _ hj hv => ?_) hr
    exact hquiet (j + 1) v (by omega) (by omega) ((run_succ_of_next hu).trans hv)

end Sys2Proof.Machine
end

section
/-! What the host reads (`10_state.md` R32, `42_step_control.md` R147, R148). -/

namespace Sys2Proof.Machine

theorem Status.bit_eq_one_iff (v : Status) : v.bit = 1#1 ↔ v = .ok := by
  cases v <;> decide

theorem getLatestRecord_eq (s : State) : getLatestRecord s = s.record := by
  ext i hi
  simp [getLatestRecord, recPort]

/-- Settles O36: a 1-bit port is 1 exactly if its register is set, and a field's name stands for its number. -/
theorem hostReadsShowTheRegisters : Obligations.HostReadsShowTheRegisters := by
  intro s
  have hstatus : statusPort s = 1#1 ↔ s.status = .ok := s.status.bit_eq_one_iff
  have hdone : donePort s = 1#1 ↔ s.done = true := by
    unfold donePort
    cases s.done <;> decide
  exact ⟨beq_iff_eq.trans hstatus, hstatus, hdone, getLatestRecord_eq s,
    rfl, rfl, rfl, rfl, rfl, rfl, rfl, rfl, rfl, rfl, rfl, rfl⟩

end Sys2Proof.Machine
end

section
/-! The discards (`60_exceptions.md` R161): the cause of each class, and the whole BYTE step that raises it. -/

namespace Sys2Proof.Machine

variable {s : State} {b : Byte} {c : DiscardClass}

/-- What raises a discard of the class: the phase, and what the byte fails there (R161). -/
def DiscardClass.Cause (s : State) (b : Byte) : DiscardClass → Prop
  | .skipM1 => s.phase = .awaitMarker1 ∧ b ≠ 0x42#8
  | .badM2 => s.phase = .awaitMarker2 ∧ b ≠ 0x4D#8
  | .badLen => s.phase = .readLengthLow ∧ loadLow s.flen b ≠ 20#16 ∧ loadLow s.flen b ≠ 28#16
  | .badCk => s.phase = .readChecksumLow ∧ loadLow s.ckr b ≠ s.acc

theorem not_lenOK_iff (len : Word) : ¬lenOK len = true ↔ len ≠ 20#16 ∧ len ≠ 28#16 := by
  rw [lenOK_iff, not_or]

theorem discardOf_eq_some_iff : discardOf s b = some c ↔ c.Cause s b := by
  constructor
  · intro h
    obtain ⟨rfl, hp, hb⟩ | ⟨rfl, hp, hb⟩ | ⟨rfl, hp, hl⟩ | ⟨rfl, hp, hk⟩ := discardOf_cases h
    · exact ⟨hp, hb⟩
    · exact ⟨hp, hb⟩
    · exact ⟨hp, (not_lenOK_iff _).mp hl⟩
    · exact ⟨hp, hk⟩
  · intro h
    cases c <;> obtain ⟨hp, hfail⟩ := h <;> simp only [discardOf, hp]
    case skipM1 => exact if_neg (mt (isM1_iff b).mp hfail)
    case badM2 => exact if_neg (mt (isM2_iff b).mp hfail)
    case badLen => exact if_neg ((not_lenOK_iff _).mpr hfail)
    case badCk => exact if_neg (mt (ckOK_iff _ _).mp hfail)

/-- The BYTE step of a discard, by its class: the ingest of the phase that raises it, on its failing branch. -/
theorem exec_byte_of_discard (h : discardOf s b = some c) :
    exec (.byte b) s = .next { s with
      pos := 0#5, done := false
      flen := if c = .badLen then loadLow s.flen b else s.flen
      acc := if c = .badLen then s.acc + zext16 b else s.acc
      ckr := if c = .badCk then loadLow s.ckr b else s.ckr } := by
  rw [exec_byte_eq]
  obtain ⟨rfl, hp, hb⟩ | ⟨rfl, hp, hb⟩ | ⟨rfl, hp, hl⟩ | ⟨rfl, hp, hk⟩ := discardOf_cases h
  · exact (ingest_of_awaitMarker1 (s := s.setDone false) hp).trans (congrArg _ (if_neg hb))
  · exact (ingest_of_awaitMarker2 (s := s.setDone false) hp).trans (congrArg _ (if_neg hb))
  · have hi := ingest_of_readLengthLow (s := s.setDone false) (b := b) hp
    rw [State.setDone_flen, if_neg hl] at hi
    exact hi
  · exact (ingest_of_readChecksumLow (s := s.setDone false) hp).trans (congrArg _ (if_neg hk))

/-- Settles O32: a class is raised by its cause alone, and its BYTE step is the failing branch of that phase's ingest. -/
theorem discardsAreSilent : Obligations.DiscardsAreSilent := fun _ _ =>
  ⟨discardOf_eq_some_iff, discardOf_eq_some_iff, discardOf_eq_some_iff, discardOf_eq_some_iff,
    fun _ hc => exec_byte_of_discard hc⟩

end Sys2Proof.Machine
end

section
/-! Simultaneous inputs (`60_exceptions.md` R165). -/

namespace Sys2Proof.Machine

/-- Settles O35: the reset is tested first, and the byte is ingested from the cleared flags, which a validation alone
overwrites. -/
theorem simultaneousInputsAreOrdered : Obligations.SimultaneousInputsAreOrdered := by
  refine ⟨fun c v b s => exec_decodeStep_portWord true c v b s, fun b s hv => ?_, fun v b s t hv h => ?_⟩
  · exact ⟨_, (exec_decodeStep_portWord false true true b s).trans (ingest_of_validates hv), rfl, rfl⟩
  · rw [exec_decodeStep_portWord, clearFlags_portWord] at h
    cases v with
    | false => cases h; exact ⟨rfl, rfl⟩
    | true =>
      obtain ⟨hval, -⟩ | ⟨-, -, hstatus, hdone⟩ := ingest_outputs (s := (s.setDone false).setStatus .waiting) h
      · exact nomatch (hv rfl).symm.trans hval
      · exact ⟨hstatus, hdone⟩

end Sys2Proof.Machine
end

section
/-! Reset (`70_reset_and_hazards.md` R180). -/

namespace Sys2Proof.Machine

/-- R180: what RST writes depends on PAY and the environment's words alone, and it leaves these as they are. -/
theorem applyReset_applyReset (s : State) : applyReset (applyReset s) = applyReset s := rfl

/-- Every field of the record at reset is the sentinel (`10_state.md` R33). -/
theorem applyReset_record_getElem (s : State) (k : Fin 12) : (applyReset s).record[k.val] = 0xFFFF#16 :=
  Vector.getElem_replicate k.isLt

/-- Settles O10: the reset bit alone selects RST, RST is `applyReset`, and a second reset finds nothing to change. -/
theorem rstRestoresResetValues : Obligations.RstRestoresResetValues := by
  refine ⟨fun c v b => decodeStep_eq_rst_iff.mpr (stepR_portWord true c v b), fun s t h => ?_, fun s => ?_⟩
  · cases h
    exact congrArg Host.Outcome.next (applyReset_applyReset s)
  · exact ⟨applyReset s, rfl, rfl, rfl, rfl, rfl, applyReset_record_getElem s, rfl, rfl, fun _ => rfl, rfl, rfl⟩

end Sys2Proof.Machine
end
